-- ==== Sys2Proof/Word.lean ====
section
/-! DEFINITION. The word types of the core (spec 00_scope.md R8, R9): every quantity of the hardware is unsigned. -/

namespace Sys2Proof

/-- An 8-bit cell: a general register, a timer, a memory cell, an immediate `kk` (R8, R20, R26, R28). -/
abbrev Byte := BitVec 8

/-- A 16-bit quantity: an instruction word, I, PC, a call-stack entry (R22, R23, R25, R90). -/
abbrev Word := BitVec 16

/-- The 12-bit address field `nnn` (30_encoding.md R91). -/
abbrev Addr12 := BitVec 12

/-- The index of a general register, 0..15; every value is legal (30_encoding.md R93). -/
abbrev RegIdx := Fin 16

/-- The index of a key of the input latch, 0..15 (10_state.md R31). -/
abbrev KeyIdx := Fin 16

/-- A byte from an exact result: the value mod 256 (00_scope.md R10, 10_state.md R20). -/
abbrev byteOf (n : Nat) : Byte := BitVec.ofNat 8 n

/-- A 16-bit word from an exact result: the value mod 65536 (00_scope.md R10). -/
abbrev wordOf (n : Nat) : Word := BitVec.ofNat 16 n

end Sys2Proof
end

