-- ==== Sys2Proof/Syntax.lean ====
section
/-! DEFINITION. The 34 instructions of the opcode map (spec 30_encoding.md R95), one constructor per row, in its order. -/

namespace Sys2Proof

/-- One instruction. `x` and `y` are register indices, `kk` an 8-bit immediate, `nnn` a 12-bit address,
`n` the sprite height (30_encoding.md R91, R92). A field the hardware ignores is kept (`low` of 5xy_ and 9xy_,
`y` of 8xy6 and 8xyE), so that a word is determined by its instruction (log entry 12). -/
inductive Instr where
  /-- 00E0 `CLS` -/
  | cls
  /-- 00EE `RET` -/
  | ret
  /-- 1nnn `JP nnn` -/
  | jp (nnn : Addr12)
  /-- 2nnn `CALL nnn` -/
  | call (nnn : Addr12)
  /-- 3xkk `SE Vx, kk` -/
  | seImm (x : RegIdx) (kk : Byte)
  /-- 4xkk `SNE Vx, kk` -/
  | sneImm (x : RegIdx) (kk : Byte)
  /-- 5xy_ `SE Vx, Vy`; `low` is the ignored low nibble -/
  | seReg (x y : RegIdx) (low : BitVec 4)
  /-- 6xkk `LD Vx, kk` -/
  | ldImm (x : RegIdx) (kk : Byte)
  /-- 7xkk `ADD Vx, kk` -/
  | addImm (x : RegIdx) (kk : Byte)
  /-- 8xy0 `LD Vx, Vy` -/
  | ldReg (x y : RegIdx)
  /-- 8xy1 `OR Vx, Vy` -/
  | orReg (x y : RegIdx)
  /-- 8xy2 `AND Vx, Vy` -/
  | andReg (x y : RegIdx)
  /-- 8xy3 `XOR Vx, Vy` -/
  | xorReg (x y : RegIdx)
  /-- 8xy4 `ADD Vx, Vy` -/
  | addReg (x y : RegIdx)
  /-- 8xy5 `SUB Vx, Vy` -/
  | sub (x y : RegIdx)
  /-- 8xy6 `SHR Vx`; `y` is ignored -/
  | shr (x y : RegIdx)
  /-- 8xy7 `SUBN Vx, Vy` -/
  | subn (x y : RegIdx)
  /-- 8xyE `SHL Vx`; `y` is ignored -/
  | shl (x y : RegIdx)
  /-- 9xy_ `SNE Vx, Vy`; `low` is the ignored low nibble -/
  | sneReg (x y : RegIdx) (low : BitVec 4)
  /-- Annn `LD I, nnn` -/
  | ldI (nnn : Addr12)
  /-- Bnnn `JP V0, nnn` -/
  | jpV0 (nnn : Addr12)
  /-- Cxkk `RND Vx, kk` -/
  | rnd (x : RegIdx) (kk : Byte)
  /-- Dxyn `DRW Vx, Vy, n` -/
  | drw (x y : RegIdx) (n : Fin 16)
  /-- Ex9E `SKP Vx` -/
  | skp (x : RegIdx)
  /-- ExA1 `SKNP Vx` -/
  | sknp (x : RegIdx)
  /-- Fx07 `LD Vx, DT` -/
  | ldVxDt (x : RegIdx)
  /-- Fx0A `LD Vx, K` -/
  | ldVxK (x : RegIdx)
  /-- Fx15 `LD DT, Vx` -/
  | ldDtVx (x : RegIdx)
  /-- Fx18 `LD ST, Vx` -/
  | ldStVx (x : RegIdx)
  /-- Fx1E `ADD I, Vx` -/
  | addI (x : RegIdx)
  /-- Fx29 `LD F, Vx` -/
  | ldF (x : RegIdx)
  /-- Fx33 `LD B, Vx` -/
  | ldB (x : RegIdx)
  /-- Fx55 `LD [I], Vx` -/
  | dump (x : RegIdx)
  /-- Fx65 `LD Vx, [I]` -/
  | load (x : RegIdx)
  deriving DecidableEq, Repr

/-- The mnemonic of an instruction's row, as spec/opcode_table.json spells it (R95, R100). -/
def Instr.mnemonic : Instr → String
  | .cls => "CLS"
  | .ret => "RET"
  | .jp _ => "JP_nnn"
  | .call _ => "CALL_nnn"
  | .seImm _ _ => "SE_Vx__kk"
  | .sneImm _ _ => "SNE_Vx__kk"
  | .seReg _ _ _ => "SE_Vx__Vy"
  | .ldImm _ _ => "LD_Vx__kk"
  | .addImm _ _ => "ADD_Vx__kk"
  | .ldReg _ _ => "LD_Vx__Vy"
  | .orReg _ _ => "OR_Vx__Vy"
  | .andReg _ _ => "AND_Vx__Vy"
  | .xorReg _ _ => "XOR_Vx__Vy"
  | .addReg _ _ => "ADD_Vx__Vy"
  | .sub _ _ => "SUB_Vx__Vy"
  | .shr _ _ => "SHR_Vx"
  | .subn _ _ => "SUBN_Vx__Vy"
  | .shl _ _ => "SHL_Vx"
  | .sneReg _ _ _ => "SNE_Vx__Vy"
  | .ldI _ => "LD_I__nnn"
  | .jpV0 _ => "JP_V0__nnn"
  | .rnd _ _ => "RND_Vx__kk"
  | .drw _ _ _ => "DRW_Vx__Vy__n"
  | .skp _ => "SKP_Vx"
  | .sknp _ => "SKNP_Vx"
  | .ldVxDt _ => "LD_Vx__DT"
  | .ldVxK _ => "LD_Vx__K"
  | .ldDtVx _ => "LD_DT__Vx"
  | .ldStVx _ => "LD_ST__Vx"
  | .addI _ => "ADD_I__Vx"
  | .ldF _ => "LD_F__Vx"
  | .ldB _ => "LD_B__Vx"
  | .dump _ => "LD__I___Vx"
  | .load _ => "LD_Vx___I"

end Sys2Proof
end

