-- ==== Sys2Proof/WellFormed.lean ====
section
/-! DEFINITION. Well-formedness of an instruction word: it matches a row of the opcode map (spec 30_encoding.md R95, R97).
An instruction as a term of `Instr` cannot be ill-formed: R93 says that every register index and every immediate is legal,
and the types of `Instr` hold exactly those ranges. So the check stands at the word, written from the masks of R95,
independently of the decoder (which is written from the two-level dispatch of R94). -/

namespace Sys2Proof

/-- One row of the opcode map (R95): a word w is the instruction exactly when `w & mask == pattern`. -/
structure OpcodeRow where
  mnemonic : String
  mask     : Word
  pattern  : Word
  deriving DecidableEq, Repr

/-- `w & mask == match` of R95. -/
def OpcodeRow.fits (r : OpcodeRow) (w : Word) : Bool := w &&& r.mask == r.pattern

/-- Rows 1 to 23 of R95. -/
def opcodeRowsLow : List OpcodeRow := [
  ⟨"CLS", 0xFFFF, 0x00E0⟩, ⟨"RET", 0xFFFF, 0x00EE⟩, ⟨"JP_nnn", 0xF000, 0x1000⟩, ⟨"CALL_nnn", 0xF000, 0x2000⟩,
  ⟨"SE_Vx__kk", 0xF000, 0x3000⟩, ⟨"SNE_Vx__kk", 0xF000, 0x4000⟩, ⟨"SE_Vx__Vy", 0xF000, 0x5000⟩,
  ⟨"LD_Vx__kk", 0xF000, 0x6000⟩, ⟨"ADD_Vx__kk", 0xF000, 0x7000⟩, ⟨"LD_Vx__Vy", 0xF00F, 0x8000⟩,
  ⟨"OR_Vx__Vy", 0xF00F, 0x8001⟩, ⟨"AND_Vx__Vy", 0xF00F, 0x8002⟩, ⟨"XOR_Vx__Vy", 0xF00F, 0x8003⟩,
  ⟨"ADD_Vx__Vy", 0xF00F, 0x8004⟩, ⟨"SUB_Vx__Vy", 0xF00F, 0x8005⟩, ⟨"SHR_Vx", 0xF00F, 0x8006⟩,
  ⟨"SUBN_Vx__Vy", 0xF00F, 0x8007⟩, ⟨"SHL_Vx", 0xF00F, 0x800E⟩, ⟨"SNE_Vx__Vy", 0xF000, 0x9000⟩,
  ⟨"LD_I__nnn", 0xF000, 0xA000⟩, ⟨"JP_V0__nnn", 0xF000, 0xB000⟩, ⟨"RND_Vx__kk", 0xF000, 0xC000⟩,
  ⟨"DRW_Vx__Vy__n", 0xF000, 0xD000⟩]

/-- Rows 24 to 34 of R95. -/
def opcodeRowsHigh : List OpcodeRow := [
  ⟨"SKP_Vx", 0xF0FF, 0xE09E⟩, ⟨"SKNP_Vx", 0xF0FF, 0xE0A1⟩, ⟨"LD_Vx__DT", 0xF0FF, 0xF007⟩,
  ⟨"LD_Vx__K", 0xF0FF, 0xF00A⟩, ⟨"LD_DT__Vx", 0xF0FF, 0xF015⟩, ⟨"LD_ST__Vx", 0xF0FF, 0xF018⟩,
  ⟨"ADD_I__Vx", 0xF0FF, 0xF01E⟩, ⟨"LD_F__Vx", 0xF0FF, 0xF029⟩, ⟨"LD_B__Vx", 0xF0FF, 0xF033⟩,
  ⟨"LD__I___Vx", 0xF0FF, 0xF055⟩, ⟨"LD_Vx___I", 0xF0FF, 0xF065⟩]

/-- The opcode map (R95), 34 rows. -/
def opcodeMap : List OpcodeRow := opcodeRowsLow ++ opcodeRowsHigh

/-- The word matches a row of the opcode map; the other words are the unrecognized ones of R97. -/
def wellFormedWord (w : Word) : Bool := opcodeMap.any (·.fits w)

end Sys2Proof
end

