-- ==== Sys2Proof/Decode.lean ====
section
/-! DEFINITION. Decoding (spec 30_encoding.md R90 to R97), total on any bytes, and the encoder. -/

namespace Sys2Proof

/-- `op = w[15:12]` (00_scope.md R9, R12, 30_encoding.md R91). -/
def opField (w : Word) : Nat := w.toNat / 4096

/-- `x = w[11:8]` (R12, R91). -/
def xField (w : Word) : RegIdx := Fin.ofNat 16 (w.toNat / 256)

/-- `y = w[7:4]` (R12, R91). -/
def yField (w : Word) : RegIdx := Fin.ofNat 16 (w.toNat / 16)

/-- `n = w[3:0]` (R12, R91). -/
def nField (w : Word) : Fin 16 := Fin.ofNat 16 w.toNat

/-- `kk = w[7:0]` (R12, R91). -/
def kkField (w : Word) : Byte := BitVec.ofNat 8 w.toNat

/-- `nnn = w[11:0]` (R12, R91). -/
def nnnField (w : Word) : Addr12 := BitVec.ofNat 12 w.toNat

/-- Group 0: the discriminant is the full word (R94). -/
def decodeGroup0 (w : Word) : Option Instr :=
  if w = 0x00E0 then some .cls else if w = 0x00EE then some .ret else none

/-- Group 8: the discriminant is the low nibble (R94, R96). -/
def decodeGroup8 (w : Word) : Option Instr :=
  match (nField w).val with
  | 0x0 => some (.ldReg (xField w) (yField w))
  | 0x1 => some (.orReg (xField w) (yField w))
  | 0x2 => some (.andReg (xField w) (yField w))
  | 0x3 => some (.xorReg (xField w) (yField w))
  | 0x4 => some (.addReg (xField w) (yField w))
  | 0x5 => some (.sub (xField w) (yField w))
  | 0x6 => some (.shr (xField w) (yField w))
  | 0x7 => some (.subn (xField w) (yField w))
  | 0xE => some (.shl (xField w) (yField w))
  | _ => none

/-- Group E: the discriminant is the low byte (R94). -/
def decodeGroupE (w : Word) : Option Instr :=
  match (kkField w).toNat with
  | 0x9E => some (.skp (xField w))
  | 0xA1 => some (.sknp (xField w))
  | _ => none

/-- Group F: the discriminant is the low byte (R94). -/
def decodeGroupF (w : Word) : Option Instr :=
  match (kkField w).toNat with
  | 0x07 => some (.ldVxDt (xField w))
  | 0x0A => some (.ldVxK (xField w))
  | 0x15 => some (.ldDtVx (xField w))
  | 0x18 => some (.ldStVx (xField w))
  | 0x1E => some (.addI (xField w))
  | 0x29 => some (.ldF (xField w))
  | 0x33 => some (.ldB (xField w))
  | 0x55 => some (.dump (xField w))
  | 0x65 => some (.load (xField w))
  | _ => none

/-- The decoder of one word, a two-level dispatch (R94); `none` is an unrecognized word (R97). -/
def decodeWord (w : Word) : Option Instr :=
  match opField w with
  | 0x0 => decodeGroup0 w
  | 0x1 => some (.jp (nnnField w))
  | 0x2 => some (.call (nnnField w))
  | 0x3 => some (.seImm (xField w) (kkField w))
  | 0x4 => some (.sneImm (xField w) (kkField w))
  | 0x5 => some (.seReg (xField w) (yField w) (BitVec.ofFin (nField w)))
  | 0x6 => some (.ldImm (xField w) (kkField w))
  | 0x7 => some (.addImm (xField w) (kkField w))
  | 0x8 => decodeGroup8 w
  | 0x9 => some (.sneReg (xField w) (yField w) (BitVec.ofFin (nField w)))
  | 0xA => some (.ldI (nnnField w))
  | 0xB => some (.jpV0 (nnnField w))
  | 0xC => some (.rnd (xField w) (kkField w))
  | 0xD => some (.drw (xField w) (yField w) (nField w))
  | 0xE => decodeGroupE w
  | _ => decodeGroupF w

/-- Why bytes do not decode. -/
inductive DecodeError where
  /-- fewer than the two bytes of an instruction word (R90) -/
  | truncated
  /-- the word matches no row of the opcode map (R97) -/
  | unrecognized (w : Word)
  deriving DecidableEq, Repr

/-- The word of two consecutive bytes, the byte at the lower address being w[15:8] (20_memory.md R64). -/
def wordOfBytes (hi lo : Byte) : Word := wordOf (hi.toNat * 256 + lo.toNat)

/-- Decoding bytes in address order: the instruction and the bytes after it, or the reason there is none. -/
def decode : List Byte → Except DecodeError (Instr × List Byte)
  | hi :: lo :: rest =>
    match decodeWord (wordOfBytes hi lo) with
    | some i => .ok (i, rest)
    | none => .error (.unrecognized (wordOfBytes hi lo))
  | _ => .error .truncated

/-! The encoder, written from the formats of R92 and the map of R95. -/

/-- Format A: op, nnn (R92). -/
def formatA (op : Nat) (nnn : Addr12) : Word := wordOf (op * 4096 + nnn.toNat)

/-- Format XK, and XS with the selector as low byte: op, x, kk (R92). -/
def formatXK (op : Nat) (x : RegIdx) (kk : Byte) : Word := wordOf (op * 4096 + x.val * 256 + kk.toNat)

/-- Formats XY and XYN: op, x, y, low digit (R92). -/
def formatXY (op : Nat) (x y : RegIdx) (low : Nat) : Word := wordOf (op * 4096 + x.val * 256 + y.val * 16 + low)

/-- The word of an instruction (R95). -/
def encodeWord : Instr → Word
  | .cls => 0x00E0
  | .ret => 0x00EE
  | .jp nnn => formatA 0x1 nnn
  | .call nnn => formatA 0x2 nnn
  | .seImm x kk => formatXK 0x3 x kk
  | .sneImm x kk => formatXK 0x4 x kk
  | .seReg x y low => formatXY 0x5 x y low.toNat
  | .ldImm x kk => formatXK 0x6 x kk
  | .addImm x kk => formatXK 0x7 x kk
  | .ldReg x y => formatXY 0x8 x y 0x0
  | .orReg x y => formatXY 0x8 x y 0x1
  | .andReg x y => formatXY 0x8 x y 0x2
  | .xorReg x y => formatXY 0x8 x y 0x3
  | .addReg x y => formatXY 0x8 x y 0x4
  | .sub x y => formatXY 0x8 x y 0x5
  | .shr x y => formatXY 0x8 x y 0x6
  | .subn x y => formatXY 0x8 x y 0x7
  | .shl x y => formatXY 0x8 x y 0xE
  | .sneReg x y low => formatXY 0x9 x y low.toNat
  | .ldI nnn => formatA 0xA nnn
  | .jpV0 nnn => formatA 0xB nnn
  | .rnd x kk => formatXK 0xC x kk
  | .drw x y n => formatXY 0xD x y n.val
  | .skp x => formatXK 0xE x 0x9E
  | .sknp x => formatXK 0xE x 0xA1
  | .ldVxDt x => formatXK 0xF x 0x07
  | .ldVxK x => formatXK 0xF x 0x0A
  | .ldDtVx x => formatXK 0xF x 0x15
  | .ldStVx x => formatXK 0xF x 0x18
  | .addI x => formatXK 0xF x 0x1E
  | .ldF x => formatXK 0xF x 0x29
  | .ldB x => formatXK 0xF x 0x33
  | .dump x => formatXK 0xF x 0x55
  | .load x => formatXK 0xF x 0x65

/-- The high byte of a word, stored at the lower address (20_memory.md R64). -/
def hiByte (w : Word) : Byte := byteOf (w.toNat / 256)

/-- The low byte of a word, stored at the higher address (20_memory.md R64). -/
def loByte (w : Word) : Byte := byteOf w.toNat

/-- The bytes of an instruction in address order. -/
def encode (i : Instr) : List Byte := [hiByte (encodeWord i), loByte (encodeWord i)]

/-- The first word of a number whose bits are numbered as spec/opcode_table.json numbers them, of which only the lowest
`nbits` count; every instruction is one 16-bit word (R90), so the bits above 15 belong to no instruction. -/
def tableWord (nbits w : Nat) : Word := wordOf (w % 2 ^ nbits)

/-- What the decoder reads from the instruction whose bits are `w`, numbered as spec/opcode_table.json numbers them. -/
def decodeTableWord (nbits w : Nat) : Option Instr :=
  match decode [hiByte (tableWord nbits w), loByte (tableWord nbits w)] with
  | .ok (i, _) => some i
  | .error _ => none

end Sys2Proof
end

