-- ==== Sys2Proof/Config.lean ====
section
/-! DEFINITION. What is fixed for the machine (spec 00_scope.md R8) and its one free value, the byte `RND` draws. The parameters
a program could show wrong stand in Machine/Parameters.lean. -/

namespace Sys2Proof.Config

/-- VF, the flag register (10_state.md R21). -/
abbrev flagReg : RegIdx := 15

/-- PROG_START, the value of PC after reset and the conventional load address (10_state.md R36, decision D31). -/
abbrev progStart : Word := 0x0200

/-- The byte drawn by the k-th `RND` since the model's count began (42_alu.md R181, decision D17): a FREE VALUE.
It has no body, so no proof can see which byte it is. Log entry 2. -/
opaque randomByte : Nat → Byte

end Sys2Proof.Config
end

