-- ==== Sys2Proof/Machine/Parameters.lean ====
section
/-! DEFINITION. The parameters of the hardware that a program can observe (spec 00_scope.md R8): the glyph address, the bound of
`ADD I, Vx` and the font bytes. -/

namespace Sys2Proof.Config

/-- GLYPH_BASE, the base `LD F, Vx` adds: 0 by 43_index_memory.md R202 (decision D12, conflict C1).
The other reading of the source is 0x050. Log entry 3. -/
@[simp] abbrev glyphBase : Nat := 0

/-- GLYPH_LEN, the bytes of one glyph (R8, 20_memory.md R75). -/
@[simp] abbrev glyphLen : Nat := 5

/-- ADDR_BOUND, the bound `ADD I, Vx` compares with (43_index_memory.md R201, decision D13). -/
@[simp] abbrev addrBound : Nat := 0x0FFF

/-- The 80 bytes of the default font table of 20_memory.md R75, glyph 0 first.
PRESUMED: the source does not give them; the spec offers this table as a default from general knowledge.
Log entry 1 (unsafe): no statement may rest on these values. -/
def font : List Byte :=
  [0xF0, 0x90, 0x90, 0x90, 0xF0,  0x20, 0x60, 0x20, 0x20, 0x70] ++
  [0xF0, 0x10, 0xF0, 0x80, 0xF0,  0xF0, 0x10, 0xF0, 0x10, 0xF0] ++
  [0x90, 0x90, 0xF0, 0x10, 0x10,  0xF0, 0x80, 0xF0, 0x10, 0xF0] ++
  [0xF0, 0x80, 0xF0, 0x90, 0xF0,  0xF0, 0x10, 0x20, 0x40, 0x40] ++
  [0xF0, 0x90, 0xF0, 0x90, 0xF0,  0xF0, 0x90, 0xF0, 0x10, 0xF0] ++
  [0xF0, 0x90, 0xF0, 0x90, 0x90,  0xE0, 0x90, 0xE0, 0x90, 0xE0] ++
  [0xF0, 0x80, 0x80, 0x80, 0xF0,  0xE0, 0x90, 0x90, 0x90, 0xE0] ++
  [0xF0, 0x80, 0xF0, 0x80, 0xF0,  0xF0, 0x80, 0xF0, 0x80, 0x80]

/-- FONT[k], 0 <= k <= 79 (20_memory.md R75). -/
def fontByte (k : Nat) : Byte := font.getD k 0

end Sys2Proof.Config
end

