-- ==== Sys2Proof/Machine/State.lean ====
section
/-! DEFINITION. The architectural state (spec 10_state.md), its reset value (R36), the outputs of a step (40_step.md R129)
and the reasons a step could stop. -/

namespace Sys2Proof.Machine

/-- The framebuffer: 32 rows (y) of 64 one-bit cells (x), a bit of a row being one cell (10_state.md R29). -/
abbrev Screen := Vector (BitVec 64) 32

/-- The core's state: everything 10_state.md R20 to R32 gives it, and the model's own count of drawn bytes. -/
structure State where
  /-- V[0..15], the register file; V[15] is VF (R20, R21) -/
  v     : Vector Byte 16
  /-- I, the index register (R22) -/
  i     : Word
  /-- PC, the program counter (R23) -/
  pc    : Word
  /-- SP, the next free slot of the call stack, 0..16 (R24); the 5-bit register's values 17..31, unreachable by R24,
  are not represented (log entry 6) -/
  sp    : Fin 17
  /-- STACK[0..15], the return addresses (R25) -/
  stack : Vector Word 16
  /-- DT, the delay timer (R26) -/
  dt    : Byte
  /-- ST, the sound timer (R27) -/
  st    : Byte
  /-- MEM[0..4095] (R28): the cells that differ from the reset contents, addresses rising (log entry 8) -/
  mem   : List Host.Cell
  /-- FB[0..2047], as 32 rows of 64 one-bit cells: FB[x + 64*y] is bit x of row y (R29, log entry 7) -/
  fb    : Screen
  /-- DIRTY (R30) -/
  dirty : Bool
  /-- KEY[0..15], the input latch, written by the host only (R31) -/
  key   : Vector Bool 16
  /-- FAULT, the cause code of the first structural violation since reset, 0 when none has occurred (R32) -/
  fault : BitVec 3
  /-- THE MODEL'S OWN: how many bytes `RND` has drawn; it selects the free value `Config.randomByte` (log entry 2) -/
  draws : Nat
  deriving DecidableEq, Repr

/-- The state after reset (10_state.md R36, 70_reset_and_hazards.md R350). Nothing is listed in memory, whose unlisted
cells read as the reset contents: the font table and zeros (`Sys2Proof.Machine.resetByte`).
DESIGN CHOICE: `draws`, the model's own field, starts at 0 (log entry 2). -/
def State.reset : State where
  v     := Vector.replicate 16 0
  i     := 0
  pc    := Config.progStart
  sp    := 0
  stack := Vector.replicate 16 0
  dt    := 0
  st    := 0
  mem   := []
  fb    := Vector.replicate 32 0
  dirty := false
  key   := Vector.replicate 16 false
  fault := 0
  draws := 0

/-- The causes of the five structural violations (60_exceptions.md R301). Taking one is a NEXT state with FAULT written
(`Sys2Proof.Machine.State.raise`). -/
inductive Cause where
  /-- the fetch of any step, PC > 4094 -/
  | fetchOutOfBounds
  /-- `CALL nnn` with SP = 16 -/
  | stackOverflow
  /-- `RET` with SP = 0 -/
  | stackUnderflow
  /-- `LD B`, `LD [I]`, `LD Vx, [I]` and `DRW` when the highest address exceeds 4095 -/
  | memIndexOutOfBounds
  /-- `SKP` and `SKNP` when the value of V[x] exceeds 15 -/
  | keyIndexOutOfRange
  deriving DecidableEq, Repr

/-- What a raised fault reports (R301): its cause and the information given with the step's status. -/
structure Raise where
  cause : Cause
  info  : Nat
  deriving DecidableEq, Repr

/-- The status of a step (40_step.md R129), an output and not state (10_state.md R33). -/
inductive Status where
  /-- a recognized instruction completed -/
  | ok
  /-- `LD Vx, K` found no key pressed -/
  | keyWait
  /-- the fetched word is unrecognized -/
  | decodeError (w : Word)
  /-- a structural violation was raised in this step -/
  | fault (r : Raise)
  /-- the step was requested with FAULT != 0 -/
  | halted
  deriving DecidableEq, Repr

/-- The host-level faults: none. The spec gives every structural violation an effect (FAULT is written, 60_exceptions.md
R302) and every step requested after it another (nothing changes, R303), so the model answers a next state for each and
has nothing to stop on (log entry 4; safe: the spec's own effect is what the next state holds). -/
inductive Fault where
  deriving DecidableEq, Repr

/-- The host-level refusals. -/
inductive Refusal where
  /-- an instruction that has no meaning yet, rejected by exec's arm under its mnemonic; safe (the model stops).
  No arm does so: every instruction has its meaning. -/
  | notModelled (mnemonic : String)
  deriving DecidableEq, Repr

/-- What a meaning and a step answer. -/
abbrev Result := Host.Outcome State Fault Refusal

end Sys2Proof.Machine
end

