-- ==== Sys2Proof/Machine/Ops.lean ====
section
/-! DEFINITION. The named operations over registers, memory, call stack, framebuffer, input latch and timers; taking a fault
as one shared operation; what a step does around the execute phase (spec 10_state.md, 20_memory.md, 40_step.md,
60_exceptions.md). -/

namespace Sys2Proof.Machine

/-! ### Registers (10_state.md R20 to R23) -/

/-- V[x] (R20). -/
def State.reg (s : State) (x : RegIdx) : Byte := s.v[x.val]

/-- V[x] <- b (R20). -/
def State.setReg (s : State) (x : RegIdx) (b : Byte) : State := { s with v := s.v.set x.val b }

/-- VF, the flag register (R21). -/
def State.vf (s : State) : Byte := s.reg Config.flagReg

/-- I <- w (R22). -/
def State.setI (s : State) (w : Word) : State := { s with i := w }

/-- PC <- w (R23). -/
def State.setPc (s : State) (w : Word) : State := { s with pc := w }

/-- PC <- PC + 2, mod 65536 (40_step.md R126). -/
def State.advance (s : State) : State := s.setPc (s.pc + 2)

/-- PC <- PC + 4 if the condition holds, else PC + 2 (40_step.md R126); the skipped word is not looked at. -/
def State.skipIf (s : State) (c : Bool) : State := s.setPc (if c then s.pc + 4 else s.pc + 2)

/-! ### Memory (20_memory.md) -/

/-- An address is valid exactly when it is at most 4095 (R60). -/
def validAddr (a : Nat) : Bool := a ≤ 4095

/-- What the cell at address `a` holds after reset and before any write: FONT[k] at 0x050 + k for k in 0..79 and 0
elsewhere (10_state.md R28, R36). This is what an address that memory does not list reads as. -/
def resetByte (a : Nat) : Byte := if 0x050 ≤ a ∧ a ≤ 0x09F then Config.fontByte (a - 0x050) else 0

/-- MemRead(a, 1) (R68): the last value written, else the reset contents. Every instruction that reads memory makes its
bounds check first (R63), so no address above 4095 is ever read. -/
def memRead : List Host.Cell → Nat → Byte
  | [], a => resetByte a
  | (c, d) :: m, a => if a = c then d else memRead m a

/-- The memory without its entry for address `a`. -/
def memErase (m : List Host.Cell) (a : Nat) : List Host.Cell := m.filter (fun c => c.1 ≠ a)

/-- The memory with an entry put before the first entry of a higher address. -/
def memInsert (a : Nat) (b : Byte) : List Host.Cell → List Host.Cell
  | [] => [(a, b)]
  | (c, d) :: m => if a < c then (a, b) :: (c, d) :: m else (c, d) :: memInsert a b m

/-- MemWrite(a, 1, b) (R68), keeping the canonical form: a cell that holds its reset contents is not listed. -/
def memWrite (m : List Host.Cell) (a : Nat) (b : Byte) : List Host.Cell :=
  if b = resetByte a then memErase m a else memInsert a b (memErase m a)

/-- The bytes written in ascending addresses from `a` (R65). -/
def memWriteBytes (m : List Host.Cell) (a : Nat) : List Byte → List Host.Cell
  | [] => m
  | b :: bs => memWriteBytes (memWrite m a b) (a + 1) bs

/-- The canonical form of a memory: addresses valid and strictly rising, no entry equal to the reset contents. -/
def Memory.wf (m : List Host.Cell) : Bool :=
  decide (m.Pairwise (fun c d => c.1 < d.1)) && m.all (fun c => validAddr c.1 && c.2 != resetByte c.1)

/-- MEM[a] (10_state.md R28). -/
def State.byteAt (s : State) (a : Nat) : Byte := memRead s.mem a

/-- The bytes stored in ascending addresses from `a`. -/
def State.storeBytes (s : State) (a : Nat) (bs : List Byte) : State := { s with mem := memWriteBytes s.mem a bs }

/-- V[k] <- MEM[a + k] for k in 0..count-1, ascending (43_index_memory.md R205). -/
def loadRegs (m : List Host.Cell) (a : Nat) : Nat → Vector Byte 16 → Vector Byte 16
  | 0, v => v
  | k + 1, v => (loadRegs m a k v).setIfInBounds k (memRead m (a + k))

/-- V[k] <- MEM[I + k] for k in 0..count-1 (43_index_memory.md R205). -/
def State.fillRegs (s : State) (count : Nat) : State := { s with v := loadRegs s.mem s.i.toNat count s.v }

/-- The values of V[0], .., V[count-1] (43_index_memory.md R204). -/
def State.firstRegs (s : State) (count : Nat) : List Byte := s.v.toList.take count

/-! ### Call stack (10_state.md R24, R25) -/

/-- STACK[SP] <- w, then SP <- SP + 1; used only when SP < 16. -/
def State.push (s : State) (w : Word) : State :=
  { s with stack := s.stack.setIfInBounds s.sp.val w, sp := s.sp + 1 }

/-- STACK[SP - 1], the most recent return address; used only when SP > 0. -/
def State.top (s : State) : Word := s.stack[s.sp.val - 1]

/-- SP <- SP - 1; the slot keeps its value (R25). Used only when SP > 0. -/
def State.pop (s : State) : State := { s with sp := s.sp - 1 }

/-! ### Timers (10_state.md R26, R27, 40_step.md R127) -/

/-- DT <- b. -/
def State.setDt (s : State) (b : Byte) : State := { s with dt := b }

/-- ST <- b. -/
def State.setSt (s : State) (b : Byte) : State := { s with st := b }

/-- One decrement of a timer: t - 1 if t > 0, else 0 (40_step.md R130). -/
def timerDec (t : Byte) : Byte := byteOf (t.toNat - 1)

/-- Tick(): DT and ST decrement by 1 each where nonzero (R127). -/
def State.tick (s : State) : State := { s with dt := timerDec s.dt, st := timerDec s.st }

/-! ### Framebuffer (10_state.md R29, R30, 44_display.md R231, R232) -/

/-- The cell with linear index k = x + 64*y: bit x of row y (R29, R232). -/
def Screen.cell (f : Screen) (k : Nat) : Bool := (f.toList.getD (k / 64) 0).getLsbD (k % 64)

/-- The framebuffer with the cell of linear index k exclusive-ored with 1 (R231). -/
def Screen.toggle (f : Screen) (k : Nat) : Screen :=
  f.setIfInBounds (k / 64) (f.toList.getD (k / 64) 0 ^^^ BitVec.twoPow 64 (k % 64))

/-- The framebuffer with all 2048 cells 0 (44_display.md R230). -/
def Screen.blank : Screen := Vector.replicate 32 0

/-- FB[k] (R29). -/
def State.pixel (s : State) (k : Nat) : Bool := s.fb.cell k

/-- FB <- f and DIRTY <- 1: what `CLS` and `DRW` do (R30). -/
def State.paint (s : State) (f : Screen) : State := { s with fb := f, dirty := true }

/-- A framebuffer and the collision found so far in a draw. -/
abbrev Canvas := Screen × Bool

/-- One set sprite bit: a collision if the cell is 1, then the cell is toggled (R231). -/
def togglePixel (p : Canvas) (k : Nat) : Canvas := (p.1.toggle k, p.2 || p.1.cell k)

/-- The cell of column `px` and row `py`, each wrapped (R231, R232): (px mod 64) + 64 * (py mod 32). -/
def pixelIndex (px py : Nat) : Nat := px % 64 + 64 * (py % 32)

/-- One sprite byte, columns 0 to 7, bit 7 being column 0 (R231). -/
def drawRow (a y : Nat) (bits : Byte) (p : Canvas) : Canvas :=
  (List.range 8).foldl (fun p col => if bits.getLsbD (7 - col) then togglePixel p (pixelIndex (a + col) y) else p) p

/-- The n rows of the sprite at `base`, row 0 first (R231). -/
def drawSprite (m : List Host.Cell) (base a b n : Nat) (p : Canvas) : Canvas :=
  (List.range n).foldl (fun p row => drawRow a (b + row) (memRead m (base + row)) p) p

/-! ### Input latch (10_state.md R31) -/

/-- KEY[k], for k in 0..15; used only for such a k (45_keypad_timers.md R250). -/
def State.keyDown (s : State) (k : Nat) : Bool := s.key.toList.getD k false

/-- The lowest-indexed pressed key, if any is pressed (45_keypad_timers.md R253). -/
def State.lowestKey (s : State) : Option Nat := s.key.toList.findIdx? id

/-! ### Random source (42_alu.md R181) -/

/-- The byte this execution of `RND` draws, a free value. -/
def State.drawn (s : State) : Byte := Config.randomByte s.draws

/-- The next `RND` draws another byte. -/
def State.nextDraw (s : State) : State := { s with draws := s.draws + 1 }

/-! ### Faults (60_exceptions.md R301 to R303, R305)

Taking a fault is one operation, `State.raise`: FAULT <- code and nothing else. Nothing saves a pc, changes a mode or goes
to a handler (R307), and there is no return from a fault: the only continuation is reset (R308), which is
`State.reset`. -/

/-- The code of a cause (R301). -/
def Cause.code : Cause → BitVec 3
  | .fetchOutOfBounds => 1
  | .stackOverflow => 2
  | .stackUnderflow => 3
  | .memIndexOutOfBounds => 4
  | .keyIndexOutOfRange => 5

/-- FAULT != 0: the core is halted until reset (R303, 40_step.md R121). -/
def State.halted (s : State) : Bool := s.fault != 0

/-- Raising a fault: FAULT <- code; nothing else changes, PC and the timers included (R302). -/
def State.raise (s : State) (r : Raise) : State := { s with fault := r.cause.code }

/-- An instruction that can fault makes its check before any write: it raises the fault, or has its effect `t`
(40_step.md R125). -/
def guarded (check : Option Raise) (s t : State) : Result :=
  match check with
  | some r => .next (s.raise r)
  | none => .next t

/-- The check of a fetch: PC + 1 > 4095 as integers (40_step.md R122). -/
def State.fetchCheck (s : State) : Option Raise :=
  if s.pc.toNat + 1 > 4095 then some ⟨.fetchOutOfBounds, s.pc.toNat⟩ else none

/-- The check of `CALL`: SP = 16 (41_control_flow.md R142). -/
def State.pushCheck (s : State) : Option Raise :=
  if s.sp.val = 16 then some ⟨.stackOverflow, s.pc.toNat⟩ else none

/-- The check of `RET`: SP = 0 (41_control_flow.md R140). -/
def State.popCheck (s : State) : Option Raise :=
  if s.sp.val = 0 then some ⟨.stackUnderflow, s.pc.toNat⟩ else none

/-- The check of an access whose highest address is I + k, an integer with no wrap (20_memory.md R63). -/
def State.spanCheck (s : State) (k : Nat) : Option Raise :=
  if s.i.toNat + k > 4095 then some ⟨.memIndexOutOfBounds, s.i.toNat + k⟩ else none

/-- The check of `DRW`: none when no byte is read (44_display.md R231). -/
def State.drawCheck (s : State) (n : Nat) : Option Raise := if n = 0 then none else s.spanCheck (n - 1)

/-- The check of `SKP` and `SKNP`: the whole value of V[x] is the key index (45_keypad_timers.md R250). -/
def State.keyCheck (s : State) (x : RegIdx) : Option Raise :=
  if (s.reg x).toNat > 15 then some ⟨.keyIndexOutOfRange, (s.reg x).toNat⟩ else none

/-! ### Around the execute phase (40_step.md R120 to R128) -/

/-- The word fetch reads, the high byte at PC (R122, 20_memory.md R64). -/
def State.fetchWord (s : State) : Word := wordOfBytes (s.byteAt s.pc.toNat) (s.byteAt (s.pc.toNat + 1))

/-- The instruction is `LD Vx, K` and no key is pressed (R120, phase 6). -/
def waitsForKey (i : Instr) (s : State) : Bool :=
  match i with
  | .ldVxK _ => s.lowestKey.isNone
  | _ => false

/-- Phase 6 of a step, after instruction `i` took `s` to `t` with FAULT = 0 in `s`: the tick, except in a key wait and
after a fault (R127). -/
def State.afterExecute (s : State) (i : Instr) (t : State) : State :=
  if waitsForKey i s || t.halted then t else t.tick

/-- `State.afterExecute` on a meaning's answer. -/
def finish (i : Instr) (s : State) : Result → Result
  | .next t => .next (s.afterExecute i t)
  | .fault r => .fault r
  | .refused r => .refused r

/-- The unrecognized word (R128): PC <- PC + 2; the report is in the step's status. -/
def State.unrecognized (s : State) : State := s.advance

/-- The instruction stored where the next step fetches it (the host's load of a program, log entry 10): its two bytes at PC,
with FAULT cleared and an unfetchable PC moved to PROG_START, without which no step would fetch them. -/
def State.withWordAtPc (s : State) (w : Word) : State :=
  let pc := if s.pc.toNat + 1 > 4095 then Config.progStart else s.pc
  { s with mem := memWriteBytes s.mem pc.toNat [hiByte w, loByte w], pc := pc, fault := 0 }

end Sys2Proof.Machine
end

