-- ==== Sys2Proof/Machine/Operands.lean ====
section
/-! DEFINITION. The operand forms (spec 30_encoding.md R92, R93) and the operand latch (40_step.md R124): every rule computes
from the values the registers held when the step began. -/

namespace Sys2Proof.Machine

/-- `a`, the latched value of V[x], as an exact number (R124, 00_scope.md R10). -/
def State.regNat (s : State) (x : RegIdx) : Nat := (s.reg x).toNat

/-- `v0`, the latched value of V[0], as an exact number (R124). -/
def State.v0 (s : State) : Nat := s.regNat 0

/-- `nnn` zero-extended to the 16 bits of PC or I (R93). -/
def addrOperand (nnn : Addr12) : Word := nnn.zeroExtend 16

/-- `JP V0, nnn`: nnn + v0, mod 65536 (41_control_flow.md R147). -/
def State.offsetTarget (s : State) (nnn : Addr12) : Word := wordOf (nnn.toNat + s.v0)

/-- The decimal digits of a value, hundreds first (43_index_memory.md R203, 40_step.md R130). -/
def bcdDigits (a : Nat) : List Byte := [byteOf (a / 100), byteOf (a / 10 % 10), byteOf (a % 10)]

/-- I + V[x] as an exact number (43_index_memory.md R201). -/
def State.indexSum (s : State) (x : RegIdx) : Nat := s.i.toNat + s.regNat x

/-- GLYPH_BASE + 5 * V[x] (43_index_memory.md R202). -/
def State.glyphAddr (s : State) (x : RegIdx) : Nat := Config.glyphBase + Config.glyphLen * s.regNat x

end Sys2Proof.Machine
end

