-- ==== Sys2Proof/Machine/Flags.lean ====
section
/-! DEFINITION. The values written to VF, the only flag (spec 10_state.md R21), and the order of the two writes of the
instructions that compute a flag and a result (42_alu.md R182). All comparisons are on exact numbers (00_scope.md R10). -/

namespace Sys2Proof.Machine

/-- A flag as the byte VF receives: 1 or 0. -/
def flagByte (c : Bool) : Byte := if c then 1 else 0

/-- `ADD Vx, Vy`: 1 iff a + b > 255 (42_alu.md R176). -/
def addFlag (a b : Nat) : Bool := a + b > 255

/-- `SUB`: 1 iff a > b, strictly; `SUBN` uses it with its operands reversed (R177, R179, 40_step.md R130). -/
def subFlag (a b : Nat) : Bool := a > b

/-- `SHR`: bit 0 before the shift (R178). -/
def shrFlag (a : Byte) : Bool := a.getLsbD 0

/-- `SHL`: bit 7 before the shift (R180). -/
def shlFlag (a : Byte) : Bool := a.getLsbD 7

/-- `ADD I, Vx`: 1 iff I + a > ADDR_BOUND (43_index_memory.md R201). -/
def indexFlag (sum : Nat) : Bool := sum > Config.addrBound

/-- (m - s) mod 256 for m, s in 0..255 (40_step.md R130). -/
def subMod (m s : Nat) : Byte := byteOf (m + 256 - s)

/-- VF <- flag. -/
def State.setFlag (s : State) (c : Bool) : State := s.setReg Config.flagReg (flagByte c)

/-- VF <- flag, then V[x] <- result: with x = 15 the result remains (R182). -/
def State.setFlagThenReg (s : State) (c : Bool) (x : RegIdx) (b : Byte) : State := (s.setFlag c).setReg x b

end Sys2Proof.Machine
end

