-- ==== Sys2Proof/Machine/Alu.lean ====
section
/-! DEFINITION. Register load, arithmetic, logical, shift and random instructions (spec 42_alu.md). None can fault, and each
ends with PC <- PC + 2. -/

namespace Sys2Proof.Machine

/-- 6xkk `LD Vx, kk` (R170). -/
def execLdImm (x : RegIdx) (kk : Byte) (s : State) : Result := .next (s.setReg x kk).advance

/-- 7xkk `ADD Vx, kk` (R171): wraps mod 256, VF is not a flag here. -/
def execAddImm (x : RegIdx) (kk : Byte) (s : State) : Result :=
  .next (s.setReg x (byteOf (s.regNat x + kk.toNat))).advance

/-- 8xy0 `LD Vx, Vy` (R172). -/
def execLdReg (x y : RegIdx) (s : State) : Result := .next (s.setReg x (s.reg y)).advance

/-- 8xy1 `OR Vx, Vy` (R173). -/
def execOrReg (x y : RegIdx) (s : State) : Result := .next (s.setReg x (s.reg x ||| s.reg y)).advance

/-- 8xy2 `AND Vx, Vy` (R174). -/
def execAndReg (x y : RegIdx) (s : State) : Result := .next (s.setReg x (s.reg x &&& s.reg y)).advance

/-- 8xy3 `XOR Vx, Vy` (R175). -/
def execXorReg (x y : RegIdx) (s : State) : Result := .next (s.setReg x (s.reg x ^^^ s.reg y)).advance

/-- 8xy4 `ADD Vx, Vy` (R176). -/
def execAddReg (x y : RegIdx) (s : State) : Result :=
  .next (s.setFlagThenReg (addFlag (s.regNat x) (s.regNat y)) x (byteOf (s.regNat x + s.regNat y))).advance

/-- 8xy5 `SUB Vx, Vy` (R177). -/
def execSub (x y : RegIdx) (s : State) : Result :=
  .next (s.setFlagThenReg (subFlag (s.regNat x) (s.regNat y)) x (subMod (s.regNat x) (s.regNat y))).advance

/-- 8xy6 `SHR Vx` (R178); y is ignored. -/
def execShr (x _y : RegIdx) (s : State) : Result :=
  .next (s.setFlagThenReg (shrFlag (s.reg x)) x (byteOf (s.regNat x / 2))).advance

/-- 8xy7 `SUBN Vx, Vy` (R179). -/
def execSubn (x y : RegIdx) (s : State) : Result :=
  .next (s.setFlagThenReg (subFlag (s.regNat y) (s.regNat x)) x (subMod (s.regNat y) (s.regNat x))).advance

/-- 8xyE `SHL Vx` (R180); y is ignored. -/
def execShl (x _y : RegIdx) (s : State) : Result :=
  .next (s.setFlagThenReg (shlFlag (s.reg x)) x (byteOf (2 * s.regNat x))).advance

/-- Cxkk `RND Vx, kk` (R181): the drawn byte is a free value (log entry 2). -/
def execRnd (x : RegIdx) (kk : Byte) (s : State) : Result := .next (s.setReg x (s.drawn &&& kk)).nextDraw.advance

end Sys2Proof.Machine
end

