-- ==== Sys2Proof/Machine/ControlFlow.lean ====
section
/-! DEFINITION. Control transfer (spec 41_control_flow.md): the execute phase of `RET`, `JP`, `CALL`, the four register skips
and `JP V0`. -/

namespace Sys2Proof.Machine

/-- 00EE `RET` (R140): SP <- SP - 1, PC <- the popped address, with no advance; StackUnderflow if SP = 0. -/
def execRet (s : State) : Result := guarded s.popCheck s (s.pop.setPc s.top)

/-- 1nnn `JP nnn` (R141). -/
def execJp (nnn : Addr12) (s : State) : Result := .next (s.setPc (addrOperand nnn))

/-- 2nnn `CALL nnn` (R142): the address of the next instruction is pushed; StackOverflow if SP = 16. -/
def execCall (nnn : Addr12) (s : State) : Result :=
  guarded s.pushCheck s ((s.push (s.pc + 2)).setPc (addrOperand nnn))

/-- 3xkk `SE Vx, kk` (R143). -/
def execSeImm (x : RegIdx) (kk : Byte) (s : State) : Result := .next (s.skipIf (s.reg x == kk))

/-- 4xkk `SNE Vx, kk` (R144). -/
def execSneImm (x : RegIdx) (kk : Byte) (s : State) : Result := .next (s.skipIf (s.reg x != kk))

/-- 5xy_ `SE Vx, Vy` (R145); the low nibble is ignored. -/
def execSeReg (x y : RegIdx) (_low : BitVec 4) (s : State) : Result := .next (s.skipIf (s.reg x == s.reg y))

/-- 9xy_ `SNE Vx, Vy` (R146); the low nibble is ignored. -/
def execSneReg (x y : RegIdx) (_low : BitVec 4) (s : State) : Result := .next (s.skipIf (s.reg x != s.reg y))

/-- Bnnn `JP V0, nnn` (R147): the sum is not reduced mod 4096. -/
def execJpV0 (nnn : Addr12) (s : State) : Result := .next (s.setPc (s.offsetTarget nnn))

end Sys2Proof.Machine
end

