-- ==== Sys2Proof/Machine/Display.lean ====
section
/-! DEFINITION. Framebuffer instructions (spec 44_display.md). -/

namespace Sys2Proof.Machine

/-- 00E0 `CLS` (R230). -/
def execCls (s : State) : Result := .next (s.paint Screen.blank).advance

/-- The framebuffer and the collision after `DRW Vx, Vy, n` (R231): coordinates are the whole latched values. -/
def State.sprite (s : State) (x y : RegIdx) (n : Fin 16) : Canvas :=
  drawSprite s.mem s.i.toNat (s.regNat x) (s.regNat y) n.val (s.fb, false)

/-- Dxyn `DRW Vx, Vy, n` (R231): VF <- collision; DIRTY is set by every draw that does not fault. -/
def execDrw (x y : RegIdx) (n : Fin 16) (s : State) : Result :=
  guarded (s.drawCheck n.val) s
    ((s.paint (s.sprite x y n).1).setFlag (s.sprite x y n).2).advance

end Sys2Proof.Machine
end

