-- ==== Sys2Proof/Machine/IndexMemory.lean ====
section
/-! DEFINITION. Index register and memory instructions (spec 43_index_memory.md). Addresses are I + k with no wrap, and each
check precedes every write (R206). -/

namespace Sys2Proof.Machine

/-- Annn `LD I, nnn` (R200). -/
def execLdI (nnn : Addr12) (s : State) : Result := .next (s.setI (addrOperand nnn)).advance

/-- Fx1E `ADD I, Vx` (R201): VF <- the sum exceeds ADDR_BOUND, I <- the sum mod 65536. -/
def execAddI (x : RegIdx) (s : State) : Result :=
  .next ((s.setFlag (indexFlag (s.indexSum x))).setI (wordOf (s.indexSum x))).advance

/-- Fx29 `LD F, Vx` (R202). -/
def execLdF (x : RegIdx) (s : State) : Result := .next (s.setI (wordOf (s.glyphAddr x))).advance

/-- Fx33 `LD B, Vx` (R203). -/
def execLdB (x : RegIdx) (s : State) : Result :=
  guarded (s.spanCheck 2) s (s.storeBytes s.i.toNat (bcdDigits (s.regNat x))).advance

/-- Fx55 `LD [I], Vx` (R204): the registers with indices 0 to x; I is unchanged. -/
def execDump (x : RegIdx) (s : State) : Result :=
  guarded (s.spanCheck x.val) s (s.storeBytes s.i.toNat (s.firstRegs (x.val + 1))).advance

/-- Fx65 `LD Vx, [I]` (R205): the registers with indices 0 to x; I is unchanged. -/
def execLoad (x : RegIdx) (s : State) : Result :=
  guarded (s.spanCheck x.val) s (s.fillRegs (x.val + 1)).advance

end Sys2Proof.Machine
end

