-- ==== Sys2Proof/Machine/KeypadTimers.lean ====
section
/-! DEFINITION. Input-latch and timer instructions (spec 45_keypad_timers.md). KEY is read-only to the core (R256). -/

namespace Sys2Proof.Machine

/-- Ex9E `SKP Vx` (R250). -/
def execSkp (x : RegIdx) (s : State) : Result :=
  guarded (s.keyCheck x) s (s.skipIf (s.keyDown (s.regNat x)))

/-- ExA1 `SKNP Vx` (R251). -/
def execSknp (x : RegIdx) (s : State) : Result :=
  guarded (s.keyCheck x) s (s.skipIf (!s.keyDown (s.regNat x)))

/-- Fx07 `LD Vx, DT` (R252): the value before this step's tick. -/
def execLdVxDt (x : RegIdx) (s : State) : Result := .next (s.setReg x s.dt).advance

/-- Fx0A `LD Vx, K` (R253): with no key pressed nothing at all is written, PC included. -/
def execLdVxK (x : RegIdx) (s : State) : Result :=
  match s.lowestKey with
  | some k => .next (s.setReg x (byteOf k)).advance
  | none => .next s

/-- Fx15 `LD DT, Vx` (R254). -/
def execLdDtVx (x : RegIdx) (s : State) : Result := .next (s.setDt (s.reg x)).advance

/-- Fx18 `LD ST, Vx` (R255). -/
def execLdStVx (x : RegIdx) (s : State) : Result := .next (s.setSt (s.reg x)).advance

end Sys2Proof.Machine
end

