-- ==== Sys2Proof/Machine/Step.lean ====
section
/-! DEFINITION. One step (spec 40_step.md R120), and the placing of an instruction where the next step fetches it. -/

namespace Sys2Proof.Machine

/-- One step: halted check (R121), fetch (R122), decode (R123), execute, tick (R127). Its status is
`Sys2Proof.Machine.stepStatus` of the same state (R129). -/
def step (s : State) : Host.Outcome State Fault Refusal :=
  if s.halted then .next s
  else match s.fetchCheck with
    | some r => .next (s.raise r)
    | none =>
      match decodeWord s.fetchWord with
      | none => .next s.unrecognized.tick
      | some i => finish i s (exec i s)

/-- `s` with the instruction whose bits are `w` (numbered as spec/opcode_table.json numbers them) stored where `step` fetches
its next instruction (log entry 10). -/
def State.withFetchWord (s : State) (nbits w : Nat) : State := s.withWordAtPc (tableWord nbits w)

end Sys2Proof.Machine
end

