-- ==== Sys2Proof/Machine/Status.lean ====
section
/-! DEFINITION. The status of a step (spec 40_step.md R129), an output computed from the state the step starts in
(10_state.md R33, log entry 5), from the same checks the meanings make. -/

namespace Sys2Proof.Machine

/-- The one check an instruction makes before its first write (60_exceptions.md R301, R305); `none` when it passes or the
instruction cannot fault. -/
def State.check (s : State) : Instr → Option Raise
  | .ret => s.popCheck
  | .call _ => s.pushCheck
  | .drw _ _ n => s.drawCheck n.val
  | .skp x => s.keyCheck x
  | .sknp x => s.keyCheck x
  | .ldB _ => s.spanCheck 2
  | .dump x => s.spanCheck x.val
  | .load x => s.spanCheck x.val
  | .cls => none
  | .jp _ => none
  | .seImm _ _ => none
  | .sneImm _ _ => none
  | .seReg _ _ _ => none
  | .ldImm _ _ => none
  | .addImm _ _ => none
  | .ldReg _ _ => none
  | .orReg _ _ => none
  | .andReg _ _ => none
  | .xorReg _ _ => none
  | .addReg _ _ => none
  | .sub _ _ => none
  | .shr _ _ => none
  | .subn _ _ => none
  | .shl _ _ => none
  | .sneReg _ _ _ => none
  | .ldI _ => none
  | .jpV0 _ => none
  | .rnd _ _ => none
  | .ldVxDt _ => none
  | .ldVxK _ => none
  | .ldDtVx _ => none
  | .ldStVx _ => none
  | .addI _ => none
  | .ldF _ => none

/-- The status of the execute phase of instruction `i`. -/
def State.execStatus (s : State) (i : Instr) : Status :=
  match s.check i with
  | some r => .fault r
  | none => if waitsForKey i s then .keyWait else .ok

/-- The status of the step that starts in `s`; the checks come in the order halted, fetch, decode, instruction
(60_exceptions.md R305). -/
def stepStatus (s : State) : Status :=
  if s.halted then .halted
  else match s.fetchCheck with
    | some r => .fault r
    | none =>
      match decodeWord s.fetchWord with
      | none => .decodeError s.fetchWord
      | some i => s.execStatus i

end Sys2Proof.Machine
end

