-- ==== Sys2Proof/Machine/Transactions.lean ====
section
/-! DEFINITION. The host's transactions (spec 60_exceptions.md R312 to R318, 70_reset_and_hazards.md R350 to R353): each is one
indivisible event between steps (R312). -/

namespace Sys2Proof.Machine

/-! ### What each transaction does to the core -/

/-- Reset(): the result does not depend on the state before it (R350, R352); the model's own count `draws` goes on, so that
the bytes drawn after a reset are not those drawn before it (log entry 2). -/
def State.doReset (s : State) : State := { State.reset with draws := s.draws }

/-- Load(bytes, addr): `none` is CapacityExceeded, with nothing written (R316). -/
def State.loadBytes (s : State) (bytes : List Byte) (addr : Nat) : Option State :=
  if addr + bytes.length > 4096 then none else some (s.storeBytes addr bytes)

/-- KeySet(k, v): KEY[k] <- v (R313). -/
def State.keySet (s : State) (k : KeyIdx) (v : Bool) : State := { s with key := s.key.set k.val v }

/-- FbRead(k): FB[k] (R314). -/
def State.fbRead (s : State) (k : Fin 2048) : Bool := s.pixel k.val

/-- DirtyQuery(): DIRTY (R315). -/
def State.dirtyQuery (s : State) : Bool := s.dirty

/-- DirtyClear(): DIRTY <- 0 (R315). -/
def State.dirtyClear (s : State) : State := { s with dirty := false }

/-! ### What the host may do when (R318) -/

/-- The host's moves (00_scope.md R4). -/
inductive HostMove where
  | reset
  | load (bytes : List Byte) (addr : Nat)
  | step
  | keySet (k : KeyIdx) (v : Bool)
  | fbRead (k : Fin 2048)
  | dirtyQuery
  | dirtyClear
  | observe
  deriving DecidableEq, Repr

/-- What a move returns to the host. -/
inductive Reply where
  | done
  | capacityExceeded
  | bit (b : Bool)
  | status (r : Status)
  | view (s : State)
  deriving DecidableEq, Repr

/-- A session: the core and how far the host has brought it. -/
inductive Session where
  /-- before the first reset: no state has a defined value (R352) -/
  | unreset
  /-- after a reset and before the first step: loads are allowed (R353) -/
  | booting (s : State)
  /-- after a load that failed: the host must not step (R316, R353) -/
  | loadFailed (s : State)
  /-- from the first step on: no further load (R316) -/
  | stepping (s : State)
  deriving DecidableEq, Repr

/-- The state of a step's next state; the step answers nothing else (log entry 4). -/
def State.stepped (s : State) : State :=
  match step s with
  | .next t => t
  | .fault _ => s
  | .refused _ => s

/-- A move that any session after reset allows at any time: `wrap` puts the core's new state back into the session. -/
def anytimeMove (s : State) (wrap : State → Session) : HostMove → Option (Session × Reply)
  | .reset => some (.booting s.doReset, .done)
  | .keySet k v => some (wrap (s.keySet k v), .done)
  | .fbRead k => some (wrap s, .bit (s.fbRead k))
  | .dirtyQuery => some (wrap s, .bit s.dirtyQuery)
  | .dirtyClear => some (wrap s.dirtyClear, .done)
  | .observe => some (wrap s, .view s)
  | .load _ _ => none
  | .step => none

/-- One move of the host; `none` where the contract gives the host no such move (R318, 93_implementation_defined.md U17 to
U21). -/
def Session.move (e : Session) (m : HostMove) : Option (Session × Reply) :=
  match e with
  | .unreset =>
    match m with
    | .reset => some (.booting State.reset, .done)
    | _ => none
  | .booting s =>
    match m with
    | .load bytes addr =>
      match s.loadBytes bytes addr with
      | some t => some (.booting t, .done)
      | none => some (.loadFailed s, .capacityExceeded)
    | .step => some (.stepping s.stepped, .status (stepStatus s))
    | m => anytimeMove s .booting m
  | .loadFailed s => anytimeMove s .loadFailed m
  | .stepping s =>
    match m with
    | .step => some (.stepping s.stepped, .status (stepStatus s))
    | m => anytimeMove s .stepping m

/-- The core of a session, where it has one. -/
def Session.core? : Session → Option State
  | .unreset => none
  | .booting s => some s
  | .loadFailed s => some s
  | .stepping s => some s

end Sys2Proof.Machine
end

