-- ==== Sys2Proof/Safety.lean ====
section
/-! DEFINITION. What a safe run is, and the invariant of the core (spec 10_state.md R23 to R25, 60_exceptions.md R301 to R303). -/

namespace Sys2Proof.Machine

/-- No structural violation has occurred: the premise of any claim about a program (60_exceptions.md R303). -/
def State.Safe (s : State) : Prop := s.fault = 0

/-- The invariant of the core: memory in canonical form; PC where no addition can wrap it (R23: at most 4095 + 255); every
live stack entry an address a `CALL` pushed (R23: at most 4096); FAULT 0 or one of the five codes (R301). -/
structure State.Inv (s : State) : Prop where
  mem   : Memory.wf s.mem = true
  pc    : s.pc.toNat ≤ 4350
  live  : ∀ k (_ : k < 16), k < s.sp.val → s.stack[k].toNat ≤ 4096
  fault : s.fault.toNat ≤ 5

/-- The parts of the state beside the general registers, PC, KEY and FAULT. -/
inductive Part where
  /-- I -/
  | index
  /-- SP and STACK -/
  | calls
  /-- DT -/
  | delay
  /-- ST -/
  | sound
  /-- MEM -/
  | memory
  /-- FB and DIRTY -/
  | screen
  /-- the model's own count of drawn bytes -/
  | draws
  deriving DecidableEq, Repr

/-- From `s` to `t` nothing changes but PC, the registers in `regs` and the parts in `parts`. KEY and FAULT never change:
no completed execute phase writes them (45_keypad_timers.md R256, 10_state.md R32). -/
structure ChangesOnly (regs : List RegIdx) (parts : List Part) (s t : State) : Prop where
  regs   : ∀ r, r ∉ regs → t.reg r = s.reg r
  index  : Part.index ∉ parts → t.i = s.i
  calls  : Part.calls ∉ parts → t.sp = s.sp ∧ t.stack = s.stack
  delay  : Part.delay ∉ parts → t.dt = s.dt
  sound  : Part.sound ∉ parts → t.st = s.st
  memory : Part.memory ∉ parts → ∀ a, t.byteAt a = s.byteAt a
  screen : Part.screen ∉ parts → t.fb = s.fb ∧ t.dirty = s.dirty
  draws  : Part.draws ∉ parts → t.draws = s.draws
  key    : t.key = s.key
  fault  : t.fault = s.fault

/-- `s` reaches `t` in `k` steps. -/
def ReachesIn : Nat → State → State → Prop
  | 0, s, t => t = s
  | k + 1, s, t => ∃ u, step s = .next u ∧ ReachesIn k u t

/-- The k-step run from `s` is safe throughout: every state of it has FAULT = 0. -/
def SafeRun (k : Nat) (s : State) : Prop := ∀ j, j ≤ k → ∃ t, ReachesIn j s t ∧ t.Safe

end Sys2Proof.Machine
end

