-- ==== Sys2Proof/Certificates/Slice0/Obligations.lean ====
section
/-! DEFINITION. The statements for the provers. Numbers R<n> are rules of spec/. An instruction word is written as a number
from the pattern of its row: `8xy4` is 0x8004 + 256 * x + 16 * y (30_encoding.md R91, R95). `exec` is the execute phase of a
step (40_step.md R120, phase 5); the tick that follows it is stated of `step`. -/

open Sys2Proof Sys2Proof.Machine

/-! ### Encoding -/

/-- Every instruction decodes from its own bytes, with every operand at every value, whatever bytes follow. -/
def Obligations.DecodeOfEncodeGivesTheInstructionBack : Prop :=
  ∀ (i : Instr) (rest : List Byte), decode (encode i ++ rest) = .ok (i, rest)

/-- A recognized word is the word of the instruction it decodes to: decoding drops no bit. -/
def Obligations.EncodeOfDecodeGivesTheWordBack : Prop :=
  ∀ (w : Word) (i : Instr), decodeWord w = some i → encodeWord i = w

/-- R95: a word is the instruction of a row exactly when `w & mask == match`. -/
def Obligations.WordIsARowsInstructionExactlyWhenItsMaskMatches : Prop :=
  ∀ (w : Word) (r : OpcodeRow), r ∈ opcodeMap →
    ((w &&& r.mask = r.pattern) ↔ ∃ i, decodeWord w = some i ∧ i.mnemonic = r.mnemonic)

/-- R94: the patterns are disjoint, so every word matches exactly one row or none. -/
def Obligations.OpcodeMapRowsAreDisjoint : Prop :=
  ∀ (w : Word) (r r' : OpcodeRow), r ∈ opcodeMap → r' ∈ opcodeMap → r.fits w = true → r'.fits w = true → r = r'

/-- The table of R97: the unrecognized words of groups 0, 8, E and F. -/
def Obligations.UnrecognizedWordsAreThoseOfFourGroups : Prop :=
  ∀ w : Word, decodeWord w = none ↔
    (w.toNat / 4096 = 0x0 ∧ w.toNat ≠ 0x00E0 ∧ w.toNat ≠ 0x00EE) ∨
    (w.toNat / 4096 = 0x8 ∧ w.toNat % 16 ∈ [0x8, 0x9, 0xA, 0xB, 0xC, 0xD, 0xF]) ∨
    (w.toNat / 4096 = 0xE ∧ w.toNat % 256 ∉ [0x9E, 0xA1]) ∨
    (w.toNat / 4096 = 0xF ∧ w.toNat % 256 ∉ [0x07, 0x0A, 0x15, 0x18, 0x1E, 0x29, 0x33, 0x55, 0x65])

/-- Words written out from the patterns of R95, one of each family, decode to what they stand for. -/
def Obligations.WordsWrittenFromTheMapDecode : Prop :=
  decodeWord 0x2210 = some (.call 0x210) ∧ decodeWord 0x8015 = some (.sub 0 1) ∧ decodeWord 0xA20E = some (.ldI 0x20E) ∧
  decodeWord 0xD012 = some (.drw 0 1 2) ∧ decodeWord 0xF30A = some (.ldVxK 3) ∧ decodeWord 0x534B = some (.seReg 3 4 0xB) ∧
  decodeWord 0x0000 = none

/-! ### Reset and the invariant -/

/-- R36: the table of reset values; FONT is the model's parameter `Config.fontByte`. -/
def Obligations.ResetLeavesTheSpecifiedValues : Prop :=
  (∀ r, State.reset.reg r = 0) ∧ State.reset.i = 0 ∧ State.reset.pc = 0x0200 ∧ State.reset.sp.val = 0 ∧
  (∀ k (_ : k < 16), State.reset.stack[k] = 0) ∧ State.reset.dt = 0 ∧ State.reset.st = 0 ∧
  (∀ a, a ≤ 0x04F → State.reset.byteAt a = 0) ∧
  (∀ k, k ≤ 79 → State.reset.byteAt (0x050 + k) = Config.fontByte k) ∧
  (∀ a, 0x0A0 ≤ a → a ≤ 0xFFF → State.reset.byteAt a = 0) ∧
  (∀ k, k < 2048 → State.reset.pixel k = false) ∧ State.reset.dirty = false ∧
  (∀ k (_ : k < 16), State.reset.key[k] = false) ∧ State.reset.fault = 0

/-- The invariant `State.Inv` holds after reset; its canonical form of memory is the model's choice (log entry 8). -/
def Obligations.ResetMeetsTheInvariant : Prop := State.reset.Inv

/-- Every step keeps the invariant: memory canonical (the model's choice, log entry 8), PC at most 4350 and so never wrapping (R23), live stack entries at most
4096 (R23), FAULT a legal code (R301). -/
def Obligations.EveryStepKeepsTheInvariant : Prop :=
  ∀ s t : State, s.Inv → step s = .next t → t.Inv

/-- Every move of the host, a step included, keeps the invariant: memory canonical (the model's choice, log entry 8), PC at
most 4350 and live stack entries at most 4096 (R23, R25), FAULT a legal code (R301). -/
def Obligations.EveryHostMoveKeepsTheInvariant : Prop :=
  ∀ (e e' : Session) (m : HostMove) (r : Reply), (∀ s, e.core? = some s → s.Inv) → e.move m = some (e', r) →
    ∀ t, e'.core? = some t → t.Inv

/-- Memories in canonical form that read the same are the same list (the model's form of MEM, log entry 8). -/
def Obligations.CanonicalMemoriesThatReadAlikeAreEqual : Prop :=
  ∀ m m' : List Host.Cell, Memory.wf m = true → Memory.wf m' = true → (∀ a, a ≤ 4095 → memRead m a = memRead m' a) → m = m'

/-! ### The step -/

/-- A step runs the instruction fetched at PC: where the two bytes at PC, the high one first, decode to `i`, the step is
`exec i`, followed by the tick unless the instruction waits for a key or raised a fault (R120, R122, R127). -/
def Obligations.StepRunsTheDecodedInstruction : Prop :=
  ∀ (s : State) (i : Instr), s.fault = 0 → s.pc.toNat ≤ 4094 →
    decodeWord (wordOf (256 * (s.byteAt s.pc.toNat).toNat + (s.byteAt (s.pc.toNat + 1)).toNat)) = some i →
    ∃ t, exec i s = .next t ∧
      ((waitsForKey i s = true ∨ t.fault ≠ 0) → step s = .next t) ∧
      (¬ (waitsForKey i s = true ∨ t.fault ≠ 0) →
        step s = .next { t with dt := if t.dt = 0 then 0 else t.dt - 1, st := if t.st = 0 then 0 else t.st - 1 })

/-- R122: the fetch reads the high byte at PC and the low byte at PC + 1, and faults, changing nothing but FAULT, exactly when
PC + 1 is past 4095. -/
def Obligations.FetchIsBigEndianAndFaultsPastTheEnd : Prop :=
  ∀ s : State,
    s.fetchWord.toNat = (s.byteAt s.pc.toNat).toNat * 256 + (s.byteAt (s.pc.toNat + 1)).toNat ∧
    (s.pc.toNat ≤ 4094 ↔ s.fetchCheck = none) ∧
    (s.fault = 0 → 4094 < s.pc.toNat →
      step s = .next { s with fault := 1 } ∧ stepStatus s = .fault ⟨.fetchOutOfBounds, s.pc.toNat⟩)

/-- While FAULT is nonzero any number of steps changes nothing, with status HALTED (R121, R303; a run is made of steps alone,
log entry 11). A reset, of any core in any session, halted or not, gives the reset state, whatever stood before (R350, R352);
that the model's own count `draws` goes on through it is the model's choice (log entry 2). -/
def Obligations.HaltedCoreStaysAsItIsUntilReset : Prop :=
  (∀ s : State, s.fault ≠ 0 → (∀ k, ReachesIn k s s) ∧ stepStatus s = .halted) ∧
  (∀ s : State, s.doReset = { State.reset with draws := s.draws } ∧ s.doReset.fault = 0 ∧
    Session.move (.booting s) .reset = some (.booting s.doReset, .done) ∧
    Session.move (.loadFailed s) .reset = some (.booting s.doReset, .done) ∧
    Session.move (.stepping s) .reset = some (.booting s.doReset, .done)) ∧
  Session.move .unreset .reset = some (.booting State.reset, .done)

/-- R128: an unrecognized word advances PC by 2 and ticks the timers, and nothing else changes; it is reported. -/
def Obligations.UnrecognizedWordIsSkippedAndReported : Prop :=
  ∀ s : State, s.fault = 0 → s.pc.toNat ≤ 4094 → decodeWord s.fetchWord = none →
    step s = .next { s with
      pc := s.pc + 2, dt := if s.dt = 0 then 0 else s.dt - 1, st := if s.st = 0 then 0 else s.st - 1 } ∧
    stepStatus s = .decodeError s.fetchWord

/-- R129: the statuses of a step, when each is given and what it says the step changed. -/
def Obligations.StatusTellsWhatTheStepChanged : Prop :=
  ∀ s t : State, step s = .next t →
    match stepStatus s with
    | .halted => s.fault ≠ 0 ∧ t = s
    | .keyWait => s.fault = 0 ∧ t = s ∧ (∃ x, decodeWord s.fetchWord = some (.ldVxK x)) ∧ ∀ k : KeyIdx, s.key[k.val] = false
    | .fault r => s.fault = 0 ∧ r.cause.code ≠ 0 ∧ t = { s with fault := r.cause.code } ∧
        (4094 < s.pc.toNat ∨ ∃ i, s.pc.toNat ≤ 4094 ∧ decodeWord s.fetchWord = some i ∧
          exec i s = .next { s with fault := r.cause.code })
    | .decodeError w => s.fault = 0 ∧ w = s.fetchWord ∧ decodeWord w = none ∧
        t = { s with pc := s.pc + 2, dt := byteOf (s.dt.toNat - 1), st := byteOf (s.st.toNat - 1) }
    | .ok => s.fault = 0 ∧ t.fault = 0 ∧ ∃ i u, decodeWord s.fetchWord = some i ∧ exec i s = .next u ∧
        (∀ x, i = .ldVxK x → ∃ k : KeyIdx, s.key[k.val] = true) ∧
        t = { u with dt := byteOf (u.dt.toNat - 1), st := byteOf (u.st.toNat - 1) }

/-- R301: which step raises which fault, with which information, and the code it writes. -/
def Obligations.FaultsAreRaisedExactlyAsTabulated : Prop :=
  (∀ (s : State) (r : Raise), stepStatus s = .fault r ↔ s.fault = 0 ∧
    ((4094 < s.pc.toNat ∧ r = ⟨.fetchOutOfBounds, s.pc.toNat⟩) ∨
     (s.pc.toNat ≤ 4094 ∧ ∃ i, decodeWord s.fetchWord = some i ∧
      ((∃ nnn, i = .call nnn ∧ s.sp.val = 16 ∧ r = ⟨.stackOverflow, s.pc.toNat⟩) ∨
       (i = .ret ∧ s.sp.val = 0 ∧ r = ⟨.stackUnderflow, s.pc.toNat⟩) ∨
       (∃ x, i = .ldB x ∧ 4095 < s.i.toNat + 2 ∧ r = ⟨.memIndexOutOfBounds, s.i.toNat + 2⟩) ∨
       (∃ x, (i = .dump x ∨ i = .load x) ∧ 4095 < s.i.toNat + x.val ∧ r = ⟨.memIndexOutOfBounds, s.i.toNat + x.val⟩) ∨
       (∃ x y n, i = .drw x y n ∧ 0 < n.val ∧ 4095 < s.i.toNat + n.val - 1 ∧
          r = ⟨.memIndexOutOfBounds, s.i.toNat + n.val - 1⟩) ∨
       (∃ x, (i = .skp x ∨ i = .sknp x) ∧ 15 < (s.reg x).toNat ∧ r = ⟨.keyIndexOutOfRange, (s.reg x).toNat⟩))))) ∧
  (∀ (s : State) (r : Raise), stepStatus s = .fault r → step s = .next { s with fault := r.cause.code }) ∧
  Cause.code .fetchOutOfBounds = 1 ∧ Cause.code .stackOverflow = 2 ∧ Cause.code .stackUnderflow = 3 ∧
  Cause.code .memIndexOutOfBounds = 4 ∧ Cause.code .keyIndexOutOfRange = 5

/-- No step and no execute phase stops the machine: each answers a next state (the model's choice of log entry 4: a fault is a
next state with FAULT written, and a halted step a next state that is the state itself). -/
def Obligations.EveryStepAnswersANextState : Prop :=
  (∀ s : State, ∃ t, step s = .next t) ∧ ∀ (i : Instr) (s : State), ∃ t, exec i s = .next t

/-- R127: the tick. DT and ST end a completed step one lower than they stood after its execute phase, saturating at 0, and
keep their values in a key wait, a faulting step and a halted step. -/
def Obligations.TimersTickInCompletedStepsOnly : Prop :=
  ∀ s t : State, step s = .next t →
    (((∃ r, stepStatus s = .fault r) ∨ stepStatus s = .keyWait ∨ stepStatus s = .halted) → t.dt = s.dt ∧ t.st = s.st) ∧
    ((stepStatus s = .ok ∨ ∃ w, stepStatus s = .decodeError w) →
      t.dt.toNat = (match decodeWord s.fetchWord with
        | some (.ldDtVx x) => (s.reg x).toNat
        | _ => s.dt.toNat) - 1 ∧
      t.st.toNat = (match decodeWord s.fetchWord with
        | some (.ldStVx x) => (s.reg x).toNat
        | _ => s.st.toNat) - 1)

/-- The table of R126: the PC an instruction that does not fault leaves. -/
def tabulatedPc (s : State) : Instr → Word
  | .ret => s.stack[s.sp.val - 1]
  | .jp nnn => wordOf nnn.toNat
  | .call nnn => wordOf nnn.toNat
  | .seImm x kk => if s.reg x = kk then s.pc + 4 else s.pc + 2
  | .sneImm x kk => if s.reg x ≠ kk then s.pc + 4 else s.pc + 2
  | .seReg x y _ => if s.reg x = s.reg y then s.pc + 4 else s.pc + 2
  | .sneReg x y _ => if s.reg x ≠ s.reg y then s.pc + 4 else s.pc + 2
  | .skp x => if s.key[(s.reg x).toNat]? = some true then s.pc + 4 else s.pc + 2
  | .sknp x => if s.key[(s.reg x).toNat]? = some false then s.pc + 4 else s.pc + 2
  | .jpV0 nnn => wordOf (nnn.toNat + (s.reg 0).toNat)
  | .ldVxK _ => if ∃ k : KeyIdx, s.key[k.val] = true then s.pc + 2 else s.pc
  | _ => s.pc + 2

/-- R126: the complete table of the new PC; an instruction that faults leaves PC as it was. -/
def Obligations.ProgramCounterFollowsTheTable : Prop :=
  (∀ (i : Instr) (s t : State), exec i s = .next t →
    ((∀ r, s.execStatus i ≠ .fault r) → t.pc = tabulatedPc s i) ∧ ((∃ r, s.execStatus i = .fault r) → t.pc = s.pc)) ∧
  (∀ s : State, s.unrecognized.pc = s.pc + 2)

/-! ### Whole-machine rules -/

/-- The registers an instruction writes (R20, R21): the destination x, VF for the seven instructions of R21, V[0..x] for the
register load. -/
def writtenRegs : Instr → List RegIdx
  | .ldImm x _ | .addImm x _ | .ldReg x _ | .orReg x _ | .andReg x _ | .xorReg x _ | .rnd x _ | .ldVxDt x | .ldVxK x => [x]
  | .addReg x _ | .sub x _ | .shr x _ | .subn x _ | .shl x _ => [x, 15]
  | .drw _ _ _ | .addI _ => [15]
  | .load x => (List.finRange 16).filter (fun k => k.val ≤ x.val)
  | _ => []

/-- The other parts of the state an instruction writes (R22 to R30, R62, R233). -/
def writtenParts : Instr → List Part
  | .cls | .drw _ _ _ => [.screen]
  | .ret | .call _ => [.calls]
  | .ldI _ | .addI _ | .ldF _ => [.index]
  | .ldB _ | .dump _ => [.memory]
  | .ldDtVx _ => [.delay]
  | .ldStVx _ => [.sound]
  | .rnd _ _ => [.draws]
  | _ => []

/-- The cell k is hit by the sprite of n rows at I drawn at (a, b): some set bit of some row wraps to it (R231). -/
def spriteHits (s : State) (a b n k : Nat) : Prop :=
  ∃ row col, row < n ∧ col < 8 ∧ (s.byteAt (s.i.toNat + row)).getLsbD (7 - col) = true ∧
    k = (a + col) % 64 + 64 * ((b + row) % 32)

/-- Every instruction that does not fault changes only PC, the registers, the parts and, within memory, the call stack and the
screen, the cells the spec gives it: among others VF is left alone by all but its seven writers, the call stack by all but
`CALL` (the slot at the old SP) and `RET` (no slot), memory by all but `LD B` (three bytes) and `LD [I]` (x + 1 bytes), the
screen by all but `CLS` and `DRW` (the cells its sprite hits). `draws` is the model's own (log entry 2). -/
def Obligations.EveryInstructionChangesOnlyWhatItsRuleNames : Prop :=
  ∀ (i : Instr) (s t : State), exec i s = .next t → (∀ r, s.execStatus i ≠ .fault r) →
    ChangesOnly (writtenRegs i) (writtenParts i) s t ∧
    (∀ x, i = .ldB x → ∀ a, a < s.i.toNat ∨ s.i.toNat + 2 < a → t.byteAt a = s.byteAt a) ∧
    (∀ x, i = .dump x → ∀ a, a < s.i.toNat ∨ s.i.toNat + x.val < a → t.byteAt a = s.byteAt a) ∧
    (∀ nnn, i = .call nnn → ∀ k (_ : k < 16), k ≠ s.sp.val → t.stack[k] = s.stack[k]) ∧
    (i = .ret → t.stack = s.stack) ∧
    (∀ x y n, i = .drw x y n → ∀ k, k < 2048 → ¬ spriteHits s (s.reg x).toNat (s.reg y).toNat n.val k →
      t.pixel k = s.pixel k)

/-- Over any run of steps alone, with no host move between them (log entry 11: the host may write KEY and clear DIRTY between
steps, R30, R31): KEY is never written (R31), DIRTY is never cleared (R30), FAULT once nonzero is never changed (R32). -/
def Obligations.RunsKeepKeysAndNeverClearDirtyOrFault : Prop :=
  ∀ (k : Nat) (s t : State), ReachesIn k s t →
    t.key = s.key ∧ (s.dirty = true → t.dirty = true) ∧ (s.fault ≠ 0 → t.fault = s.fault)

/-- ST and DIRTY are outputs only (R27, R30): a step keeps the relation 'equal but for ST and DIRTY' between two states, and
so does a run of steps alone (log entry 11). That both states draw the same bytes in `RND` (R132: the byte drawn is given) is
the model's choice of log entry 2, their counts `draws` being equal. -/
def Obligations.SoundTimerAndDirtyFlagInfluenceNothingElse : Prop :=
  (∀ (s t : State) (b : Byte) (d : Bool), step s = .next t →
    ∃ b' d', step { s with st := b, dirty := d } = .next { t with st := b', dirty := d' }) ∧
  (∀ (k : Nat) (s t : State) (b : Byte) (d : Bool), ReachesIn k s t →
    ∃ b' d', ReachesIn k { s with st := b, dirty := d } { t with st := b', dirty := d' })

/-- A popped call-stack slot is never read (R25, 93_implementation_defined.md U23): two states that differ only in slots at or
above SP take steps that differ only in slots at or above SP. That both draw the same byte in `RND` (R132: the byte drawn is
given) is the model's choice of log entry 2, their counts `draws` being equal. -/
def Obligations.StaleStackSlotsInfluenceNothing : Prop :=
  ∀ (s t : State) (stk : Vector Word 16), (∀ k (_ : k < 16), k < s.sp.val → stk[k] = s.stack[k]) → step s = .next t →
    ∃ stk' : Vector Word 16, step { s with stack := stk } = .next { t with stack := stk' } ∧
      ∀ k (_ : k < 16), k < t.sp.val → stk'[k] = t.stack[k]

/-- R131: the self-jump with both timers at 0 is a fixed point, for any number of steps (steps alone, log entry 11). -/
def Obligations.SelfJumpIsAFixedPoint : Prop :=
  ∀ (s : State) (nnn : Addr12), s.fault = 0 → s.pc.toNat = nnn.toNat → s.pc.toNat ≤ 4094 → s.dt = 0 → s.st = 0 →
    decodeWord s.fetchWord = some (.jp nnn) → ∀ k, ReachesIn k s s

/-- While every step completes and none stores into DT, k steps (steps alone, log entry 11) lower DT by k, stopping at 0
(R127, R359). -/
def Obligations.DelayTimerCountsCompletedSteps : Prop :=
  ∀ (k : Nat) (s t : State),
    (∀ j, j < k → ∃ u, ReachesIn j s u ∧ (stepStatus u = .ok ∨ ∃ w, stepStatus u = .decodeError w) ∧
      ∀ x, decodeWord u.fetchWord ≠ some (.ldDtVx x)) →
    ReachesIn k s t → t.dt.toNat = s.dt.toNat - k

/-! ### Control transfer -/

/-- R140 `RET`: word 00EE; the popped address becomes PC, the slot keeps its value, VF is not written; StackUnderflow, with
nothing else changed, when SP = 0. -/
def Obligations.RetPopsTheReturnAddress : Prop :=
  decodeWord 0x00EE = some .ret ∧
  ∀ s : State,
    (s.sp.val ≠ 0 → ∃ t, exec .ret s = .next t ∧ t.sp.val = s.sp.val - 1 ∧ s.stack[t.sp.val]? = some t.pc ∧
      t.stack = s.stack ∧ ChangesOnly [] [.calls] s t) ∧
    (s.sp.val = 0 → exec .ret s = .next { s with fault := 3 } ∧
      s.execStatus .ret = .fault ⟨.stackUnderflow, s.pc.toNat⟩)

/-- R142 `CALL nnn`: word 2nnn; PC + 2 is pushed, PC becomes nnn; StackOverflow, with nothing else changed, when SP = 16. -/
def Obligations.CallPushesTheNextAddress : Prop :=
  ∀ nnn : Addr12, decodeWord (wordOf (0x2000 + nnn.toNat)) = some (.call nnn) ∧
  ∀ s : State,
    (s.sp.val ≠ 16 → ∃ t, exec (.call nnn) s = .next t ∧ t.sp.val = s.sp.val + 1 ∧ t.pc.toNat = nnn.toNat ∧
      (∀ k (_ : k < 16), t.stack[k] = if k = s.sp.val then wordOf (s.pc.toNat + 2) else s.stack[k]) ∧
      ChangesOnly [] [.calls] s t) ∧
    (s.sp.val = 16 → exec (.call nnn) s = .next { s with fault := 2 } ∧
      s.execStatus (.call nnn) = .fault ⟨.stackOverflow, s.pc.toNat⟩)

/-- A `CALL` to a `RET` comes back to the address after the `CALL`, with the stack as deep as before (source scenario S10;
the two steps have no host move between them, log entry 11). -/
def Obligations.CallThenReturnComesBackAfterTheCall : Prop :=
  ∀ (s : State) (nnn : Addr12), s.fault = 0 → s.pc.toNat ≤ 4094 → s.sp.val < 16 → nnn.toNat ≤ 4094 →
    decodeWord s.fetchWord = some (.call nnn) →
    decodeWord (wordOfBytes (s.byteAt nnn.toNat) (s.byteAt (nnn.toNat + 1))) = some .ret →
    ∃ t, ReachesIn 2 s t ∧ t.pc = s.pc + 2 ∧ t.sp = s.sp ∧ t.fault = 0 ∧ (∀ r, t.reg r = s.reg r) ∧
      ∀ k (_ : k < 16), k < s.sp.val → t.stack[k] = s.stack[k]

/-- R141 `JP nnn` (1nnn) and R147 `JP V0, nnn` (Bnnn): absolute targets, no check, no other effect. -/
def Obligations.JumpsGoToTheirTargets : Prop :=
  ∀ nnn : Addr12,
    decodeWord (wordOf (0x1000 + nnn.toNat)) = some (.jp nnn) ∧ decodeWord (wordOf (0xB000 + nnn.toNat)) = some (.jpV0 nnn) ∧
    ∀ s : State,
      (∃ t, exec (.jp nnn) s = .next t ∧ t.pc.toNat = nnn.toNat ∧ ChangesOnly [] [] s t) ∧
      (∃ t, exec (.jpV0 nnn) s = .next t ∧ t.pc.toNat = nnn.toNat + (s.reg 0).toNat ∧ ChangesOnly [] [] s t)

/-- R143 `SE Vx, kk` (3xkk) and R144 `SNE Vx, kk` (4xkk). -/
def Obligations.SkipsCompareARegisterWithAnImmediate : Prop :=
  ∀ (x : RegIdx) (kk : Byte),
    decodeWord (wordOf (0x3000 + 256 * x.val + kk.toNat)) = some (.seImm x kk) ∧
    decodeWord (wordOf (0x4000 + 256 * x.val + kk.toNat)) = some (.sneImm x kk) ∧
    ∀ s : State,
      (∃ t, exec (.seImm x kk) s = .next t ∧
        t.pc.toNat = (if s.reg x = kk then s.pc.toNat + 4 else s.pc.toNat + 2) % 65536 ∧ ChangesOnly [] [] s t) ∧
      (∃ t, exec (.sneImm x kk) s = .next t ∧
        t.pc.toNat = (if s.reg x = kk then s.pc.toNat + 2 else s.pc.toNat + 4) % 65536 ∧ ChangesOnly [] [] s t)

/-- R145 `SE Vx, Vy` (5xy_) and R146 `SNE Vx, Vy` (9xy_), whatever the ignored low nibble. -/
def Obligations.SkipsCompareTwoRegisters : Prop :=
  ∀ (x y : RegIdx) (low : BitVec 4),
    decodeWord (wordOf (0x5000 + 256 * x.val + 16 * y.val + low.toNat)) = some (.seReg x y low) ∧
    decodeWord (wordOf (0x9000 + 256 * x.val + 16 * y.val + low.toNat)) = some (.sneReg x y low) ∧
    ∀ s : State,
      (∃ t, exec (.seReg x y low) s = .next t ∧
        t.pc.toNat = (if s.reg x = s.reg y then s.pc.toNat + 4 else s.pc.toNat + 2) % 65536 ∧ ChangesOnly [] [] s t) ∧
      (∃ t, exec (.sneReg x y low) s = .next t ∧
        t.pc.toNat = (if s.reg x = s.reg y then s.pc.toNat + 2 else s.pc.toNat + 4) % 65536 ∧ ChangesOnly [] [] s t)

/-! ### Register load, arithmetic, logic, shift, random -/

/-- R170 `LD Vx, kk` (6xkk) and R171 `ADD Vx, kk` (7xkk): the sum wraps mod 256 and no flag is recorded. -/
def Obligations.ImmediateLoadAndAddWriteOnlyTheirRegister : Prop :=
  ∀ (x : RegIdx) (kk : Byte),
    decodeWord (wordOf (0x6000 + 256 * x.val + kk.toNat)) = some (.ldImm x kk) ∧
    decodeWord (wordOf (0x7000 + 256 * x.val + kk.toNat)) = some (.addImm x kk) ∧
    ∀ s : State,
      (∃ t, exec (.ldImm x kk) s = .next t ∧ t.reg x = kk ∧ t.pc = s.pc + 2 ∧ ChangesOnly [x] [] s t) ∧
      (∃ t, exec (.addImm x kk) s = .next t ∧ (t.reg x).toNat = ((s.reg x).toNat + kk.toNat) % 256 ∧
        t.pc = s.pc + 2 ∧ ChangesOnly [x] [] s t)

/-- R172 to R175 `LD`, `OR`, `AND`, `XOR` (8xy0 to 8xy3): bit by bit, and VF is not written. -/
def Obligations.CopyAndLogicLeaveTheFlagAlone : Prop :=
  ∀ (x y : RegIdx),
    decodeWord (wordOf (0x8000 + 256 * x.val + 16 * y.val)) = some (.ldReg x y) ∧
    decodeWord (wordOf (0x8001 + 256 * x.val + 16 * y.val)) = some (.orReg x y) ∧
    decodeWord (wordOf (0x8002 + 256 * x.val + 16 * y.val)) = some (.andReg x y) ∧
    decodeWord (wordOf (0x8003 + 256 * x.val + 16 * y.val)) = some (.xorReg x y) ∧
    ∀ s : State,
      (∃ t, exec (.ldReg x y) s = .next t ∧ t.reg x = s.reg y ∧ t.pc = s.pc + 2 ∧ ChangesOnly [x] [] s t) ∧
      (∃ t, exec (.orReg x y) s = .next t ∧ t.pc = s.pc + 2 ∧ ChangesOnly [x] [] s t ∧
        ∀ k, k < 8 → (t.reg x).getLsbD k = ((s.reg x).getLsbD k || (s.reg y).getLsbD k)) ∧
      (∃ t, exec (.andReg x y) s = .next t ∧ t.pc = s.pc + 2 ∧ ChangesOnly [x] [] s t ∧
        ∀ k, k < 8 → (t.reg x).getLsbD k = ((s.reg x).getLsbD k && (s.reg y).getLsbD k)) ∧
      (∃ t, exec (.xorReg x y) s = .next t ∧ t.pc = s.pc + 2 ∧ ChangesOnly [x] [] s t ∧
        ∀ k, k < 8 → (t.reg x).getLsbD k = ((s.reg x).getLsbD k != (s.reg y).getLsbD k))

/-- R176 `ADD Vx, Vy` (8xy4): the sum mod 256, VF 1 iff the sum of the old values exceeds 255; with x = 15 the sum remains. -/
def Obligations.AddRecordsTheCarry : Prop :=
  ∀ (x y : RegIdx), decodeWord (wordOf (0x8004 + 256 * x.val + 16 * y.val)) = some (.addReg x y) ∧
    ∀ s : State, ∃ t, exec (.addReg x y) s = .next t ∧
      (t.reg x).toNat = ((s.reg x).toNat + (s.reg y).toNat) % 256 ∧
      (x ≠ 15 → t.vf.toNat = if (s.reg x).toNat + (s.reg y).toNat > 255 then 1 else 0) ∧
      t.pc = s.pc + 2 ∧ ChangesOnly [x, 15] [] s t

/-- R177 `SUB` (8xy5) and R179 `SUBN` (8xy7): the difference mod 256, VF 1 iff the minuend is strictly greater; with x = 15
the difference remains. -/
def Obligations.SubtractionsFlagAStrictlyGreaterMinuend : Prop :=
  ∀ (x y : RegIdx),
    decodeWord (wordOf (0x8005 + 256 * x.val + 16 * y.val)) = some (.sub x y) ∧
    decodeWord (wordOf (0x8007 + 256 * x.val + 16 * y.val)) = some (.subn x y) ∧
    ∀ s : State,
      (∃ t, exec (.sub x y) s = .next t ∧
        ((t.reg x).toNat : Int) = ((s.reg x).toNat - (s.reg y).toNat : Int) % 256 ∧
        (x ≠ 15 → t.vf.toNat = if (s.reg x).toNat > (s.reg y).toNat then 1 else 0) ∧
        t.pc = s.pc + 2 ∧ ChangesOnly [x, 15] [] s t) ∧
      (∃ t, exec (.subn x y) s = .next t ∧
        ((t.reg x).toNat : Int) = ((s.reg y).toNat - (s.reg x).toNat : Int) % 256 ∧
        (x ≠ 15 → t.vf.toNat = if (s.reg y).toNat > (s.reg x).toNat then 1 else 0) ∧
        t.pc = s.pc + 2 ∧ ChangesOnly [x, 15] [] s t)

/-- R178 `SHR` (8xy6) and R180 `SHL` (8xyE): V[x] by one position, whatever y; VF the bit shifted out; with x = 15 the result
remains. -/
def Obligations.ShiftsMoveOneBitIntoTheFlag : Prop :=
  ∀ (x y : RegIdx),
    decodeWord (wordOf (0x8006 + 256 * x.val + 16 * y.val)) = some (.shr x y) ∧
    decodeWord (wordOf (0x800E + 256 * x.val + 16 * y.val)) = some (.shl x y) ∧
    ∀ s : State,
      (∃ t, exec (.shr x y) s = .next t ∧ (t.reg x).toNat = (s.reg x).toNat / 2 ∧
        (x ≠ 15 → t.vf.toNat = (s.reg x).toNat % 2) ∧ t.pc = s.pc + 2 ∧ ChangesOnly [x, 15] [] s t) ∧
      (∃ t, exec (.shl x y) s = .next t ∧ (t.reg x).toNat = 2 * (s.reg x).toNat % 256 ∧
        (x ≠ 15 → t.vf.toNat = (s.reg x).toNat / 128) ∧ t.pc = s.pc + 2 ∧ ChangesOnly [x, 15] [] s t)

/-- R182: with VF as destination the five flag-setting operations leave the result computed from the old values, the flag
being lost, whatever y (15 included). -/
def Obligations.ResultRemainsWhenTheDestinationIsTheFlagRegister : Prop :=
  ∀ (y : RegIdx) (s : State),
    (∃ t, exec (.addReg 15 y) s = .next t ∧ t.vf.toNat = (s.vf.toNat + (s.reg y).toNat) % 256) ∧
    (∃ t, exec (.sub 15 y) s = .next t ∧ t.vf.toNat = (s.vf.toNat + 256 - (s.reg y).toNat) % 256) ∧
    (∃ t, exec (.shr 15 y) s = .next t ∧ t.vf.toNat = s.vf.toNat / 2) ∧
    (∃ t, exec (.subn 15 y) s = .next t ∧ t.vf.toNat = ((s.reg y).toNat + 256 - s.vf.toNat) % 256) ∧
    (∃ t, exec (.shl 15 y) s = .next t ∧ t.vf.toNat = 2 * s.vf.toNat % 256)

/-- R181 `RND Vx, kk` (Cxkk): the drawn byte, a free value, masked with kk; no bit outside kk is ever set; VF is no flag here;
the next `RND` draws a byte of its own (`draws` is the model's own field, log entry 2). -/
def Obligations.RandomByteIsMasked : Prop :=
  ∀ (x : RegIdx) (kk : Byte), decodeWord (wordOf (0xC000 + 256 * x.val + kk.toNat)) = some (.rnd x kk) ∧
    ∀ s : State, ∃ t, exec (.rnd x kk) s = .next t ∧ t.reg x = Config.randomByte s.draws &&& kk ∧
      t.reg x &&& ~~~kk = 0 ∧ t.draws = s.draws + 1 ∧ t.pc = s.pc + 2 ∧ ChangesOnly [x] [.draws] s t

/-! ### Index register and memory -/

/-- R200 `LD I, nnn` (Annn). -/
def Obligations.LoadIndexSetsTheAddress : Prop :=
  ∀ nnn : Addr12, decodeWord (wordOf (0xA000 + nnn.toNat)) = some (.ldI nnn) ∧
    ∀ s : State, ∃ t, exec (.ldI nnn) s = .next t ∧ t.i.toNat = nnn.toNat ∧ t.pc = s.pc + 2 ∧ ChangesOnly [] [.index] s t

/-- R201 `ADD I, Vx` (Fx1E): I + V[x] mod 65536, VF 1 iff the exact sum exceeds 0x0FFF, VF always written; with x = 15 the
addend is the old VF. -/
def Obligations.AddToIndexFlagsASumPastTheBound : Prop :=
  ∀ x : RegIdx, decodeWord (wordOf (0xF01E + 256 * x.val)) = some (.addI x) ∧
    ∀ s : State, ∃ t, exec (.addI x) s = .next t ∧ t.i.toNat = (s.i.toNat + (s.reg x).toNat) % 65536 ∧
      t.vf.toNat = (if s.i.toNat + (s.reg x).toNat > 0x0FFF then 1 else 0) ∧ t.pc = s.pc + 2 ∧
      ChangesOnly [15] [.index] s t

/-- R202 `LD F, Vx` (Fx29): I becomes GLYPH_BASE + 5 * V[x] with GLYPH_BASE = 0, the whole value of V[x] used. -/
def Obligations.GlyphAddressIsFiveTimesTheRegister : Prop :=
  ∀ x : RegIdx, decodeWord (wordOf (0xF029 + 256 * x.val)) = some (.ldF x) ∧ Config.glyphBase = 0 ∧
    ∀ s : State, ∃ t, exec (.ldF x) s = .next t ∧ t.i.toNat = Config.glyphBase + 5 * (s.reg x).toNat ∧
      t.pc = s.pc + 2 ∧ ChangesOnly [] [.index] s t

/-- R203 `LD B, Vx` (Fx33): the hundreds, tens and units digits at I, I + 1, I + 2 and no other byte of memory; past 4095 the
fault MemIndexOutOfBounds with nothing else changed. -/
def Obligations.BcdStoresThreeDigits : Prop :=
  ∀ x : RegIdx, decodeWord (wordOf (0xF033 + 256 * x.val)) = some (.ldB x) ∧
    ∀ s : State,
      (s.i.toNat + 2 ≤ 4095 → ∃ t, exec (.ldB x) s = .next t ∧
        (t.byteAt s.i.toNat).toNat = (s.reg x).toNat / 100 ∧
        (t.byteAt (s.i.toNat + 1)).toNat = (s.reg x).toNat / 10 % 10 ∧
        (t.byteAt (s.i.toNat + 2)).toNat = (s.reg x).toNat % 10 ∧
        (∀ a, a < s.i.toNat ∨ s.i.toNat + 2 < a → t.byteAt a = s.byteAt a) ∧
        t.pc = s.pc + 2 ∧ ChangesOnly [] [.memory] s t) ∧
      (4095 < s.i.toNat + 2 → exec (.ldB x) s = .next { s with fault := 4 } ∧
        s.execStatus (.ldB x) = .fault ⟨.memIndexOutOfBounds, s.i.toNat + 2⟩)

/-- R204 `LD [I], Vx` (Fx55): V[0..x] at I..I+x and no other byte of memory; I unchanged; past 4095 the fault. -/
def Obligations.DumpStoresRegistersZeroToX : Prop :=
  ∀ x : RegIdx, decodeWord (wordOf (0xF055 + 256 * x.val)) = some (.dump x) ∧
    ∀ s : State,
      (s.i.toNat + x.val ≤ 4095 → ∃ t, exec (.dump x) s = .next t ∧
        (∀ k : RegIdx, k.val ≤ x.val → t.byteAt (s.i.toNat + k.val) = s.reg k) ∧
        (∀ a, a < s.i.toNat ∨ s.i.toNat + x.val < a → t.byteAt a = s.byteAt a) ∧
        t.pc = s.pc + 2 ∧ ChangesOnly [] [.memory] s t) ∧
      (4095 < s.i.toNat + x.val → exec (.dump x) s = .next { s with fault := 4 } ∧
        s.execStatus (.dump x) = .fault ⟨.memIndexOutOfBounds, s.i.toNat + x.val⟩)

/-- R205 `LD Vx, [I]` (Fx65): V[0..x] from I..I+x, registers above x and I unchanged; past 4095 the fault. -/
def Obligations.LoadFillsRegistersZeroToX : Prop :=
  ∀ x : RegIdx, decodeWord (wordOf (0xF065 + 256 * x.val)) = some (.load x) ∧
    ∀ s : State,
      (s.i.toNat + x.val ≤ 4095 → ∃ t, exec (.load x) s = .next t ∧
        (∀ k : RegIdx, t.reg k = if k.val ≤ x.val then s.byteAt (s.i.toNat + k.val) else s.reg k) ∧
        t.pc = s.pc + 2 ∧ ChangesOnly ((List.finRange 16).filter (fun k => k.val ≤ x.val)) [] s t) ∧
      (4095 < s.i.toNat + x.val → exec (.load x) s = .next { s with fault := 4 } ∧
        s.execStatus (.load x) = .fault ⟨.memIndexOutOfBounds, s.i.toNat + x.val⟩)

/-- A dump followed by a load of the same registers at the same I restores them, whatever the registers held in between. -/
def Obligations.LoadAfterDumpRestoresTheRegisters : Prop :=
  ∀ (x : RegIdx) (s t u w : State), s.i.toNat + x.val ≤ 4095 → exec (.dump x) s = .next t → u.mem = t.mem → u.i = s.i →
    exec (.load x) u = .next w → ∀ k : RegIdx, k.val ≤ x.val → w.reg k = s.reg k

/-- R72: a store to the very next instruction is what the next step fetches. -/
def Obligations.StoreIsSeenByTheNextFetch : Prop :=
  ∀ (s : State) (x : RegIdx), s.fault = 0 → s.pc.toNat ≤ 4092 → 1 ≤ x.val → s.i = s.pc + 2 → s.i.toNat + x.val ≤ 4095 →
    decodeWord s.fetchWord = some (.dump x) →
    ∃ t, step s = .next t ∧ t.pc = s.pc + 2 ∧ t.fetchWord.toNat = 256 * (s.reg 0).toNat + (s.reg 1).toNat

/-! ### Framebuffer -/

/-- R230 `CLS` (00E0): every cell 0, DIRTY set, registers, I and memory untouched. -/
def Obligations.ClearScreenBlanksEveryCell : Prop :=
  decodeWord 0x00E0 = some .cls ∧
  ∀ s : State, ∃ t, exec .cls s = .next t ∧ (∀ k, k < 2048 → t.pixel k = false) ∧ t.dirty = true ∧ t.pc = s.pc + 2 ∧
    ChangesOnly [] [.screen] s t

/-- R231 `DRW Vx, Vy, n` (Dxyn): the loop over rows and columns inverts exactly the cells the sprite hits, VF says whether
one of them was 1, DIRTY is set; the coordinates are the old values of V[x] and V[y]; past 4095 the fault, with nothing else
changed. -/
def Obligations.DrawInvertsTheCellsTheSpriteHits : Prop :=
  ∀ (x y : RegIdx) (n : Fin 16),
    decodeWord (wordOf (0xD000 + 256 * x.val + 16 * y.val + n.val)) = some (.drw x y n) ∧
    ∀ s : State,
      ((n.val = 0 ∨ s.i.toNat + n.val - 1 ≤ 4095) → ∃ t, exec (.drw x y n) s = .next t ∧
        (∀ k, k < 2048 →
          (spriteHits s (s.reg x).toNat (s.reg y).toNat n.val k → t.pixel k = !s.pixel k) ∧
          (¬ spriteHits s (s.reg x).toNat (s.reg y).toNat n.val k → t.pixel k = s.pixel k)) ∧
        ((∃ k, k < 2048 ∧ spriteHits s (s.reg x).toNat (s.reg y).toNat n.val k ∧ s.pixel k = true) → t.vf = 1) ∧
        ((¬ ∃ k, k < 2048 ∧ spriteHits s (s.reg x).toNat (s.reg y).toNat n.val k ∧ s.pixel k = true) → t.vf = 0) ∧
        t.dirty = true ∧ t.pc = s.pc + 2 ∧ ChangesOnly [15] [.screen] s t) ∧
      (0 < n.val → 4095 < s.i.toNat + n.val - 1 → exec (.drw x y n) s = .next { s with fault := 4 } ∧
        s.execStatus (.drw x y n) = .fault ⟨.memIndexOutOfBounds, s.i.toNat + n.val - 1⟩)

/-- Drawing the same sprite twice at the same place restores every cell, and the second draw flags a collision if the first
hit any cell and found all it hit clear (source scenario S8). -/
def Obligations.DrawingTwiceRestoresTheScreen : Prop :=
  ∀ (x y : RegIdx) (n : Fin 16) (s t u : State), (n.val = 0 ∨ s.i.toNat + n.val - 1 ≤ 4095) →
    exec (.drw x y n) s = .next t → t.reg x = s.reg x → t.reg y = s.reg y → exec (.drw x y n) t = .next u →
    (∀ k, k < 2048 → u.pixel k = s.pixel k) ∧
    (t.vf = 0 → (∃ k, k < 2048 ∧ spriteHits s (s.reg x).toNat (s.reg y).toNat n.val k) → u.vf = 1)

/-! ### Input latch and timers -/

/-- R250 `SKP Vx` (Ex9E) and R251 `SKNP Vx` (ExA1): the whole value of V[x] is the key index; above 15 the fault
KeyIndexOutOfRange with nothing else changed. -/
def Obligations.KeySkipsTestTheLatch : Prop :=
  ∀ x : RegIdx, decodeWord (wordOf (0xE09E + 256 * x.val)) = some (.skp x) ∧
    decodeWord (wordOf (0xE0A1 + 256 * x.val)) = some (.sknp x) ∧
    ∀ s : State,
      (∀ h : (s.reg x).toNat < 16,
        (∃ t, exec (.skp x) s = .next t ∧ t.pc = (if s.key[(s.reg x).toNat] = true then s.pc + 4 else s.pc + 2) ∧
          ChangesOnly [] [] s t) ∧
        (∃ t, exec (.sknp x) s = .next t ∧ t.pc = (if s.key[(s.reg x).toNat] = false then s.pc + 4 else s.pc + 2) ∧
          ChangesOnly [] [] s t)) ∧
      (15 < (s.reg x).toNat →
        exec (.skp x) s = .next { s with fault := 5 } ∧ exec (.sknp x) s = .next { s with fault := 5 } ∧
        s.execStatus (.skp x) = .fault ⟨.keyIndexOutOfRange, (s.reg x).toNat⟩ ∧
        s.execStatus (.sknp x) = .fault ⟨.keyIndexOutOfRange, (s.reg x).toNat⟩)

/-- R252 `LD Vx, DT` (Fx07), R254 `LD DT, Vx` (Fx15), R255 `LD ST, Vx` (Fx18): the execute phase moves the value, and the
whole step ticks both timers (R127). -/
def Obligations.TimerMovesCopyTheValueAndThenTick : Prop :=
  ∀ x : RegIdx,
    decodeWord (wordOf (0xF007 + 256 * x.val)) = some (.ldVxDt x) ∧
    decodeWord (wordOf (0xF015 + 256 * x.val)) = some (.ldDtVx x) ∧
    decodeWord (wordOf (0xF018 + 256 * x.val)) = some (.ldStVx x) ∧
    ∀ s : State,
      (∃ t, exec (.ldVxDt x) s = .next t ∧ t.reg x = s.dt ∧ t.pc = s.pc + 2 ∧ ChangesOnly [x] [] s t) ∧
      (∃ t, exec (.ldDtVx x) s = .next t ∧ t.dt = s.reg x ∧ t.pc = s.pc + 2 ∧ ChangesOnly [] [.delay] s t) ∧
      (∃ t, exec (.ldStVx x) s = .next t ∧ t.st = s.reg x ∧ t.pc = s.pc + 2 ∧ ChangesOnly [] [.sound] s t) ∧
      (s.fault = 0 → s.pc.toNat ≤ 4094 → ∀ u, step s = .next u →
        (decodeWord s.fetchWord = some (.ldVxDt x) → u.reg x = s.dt ∧ u.dt.toNat = s.dt.toNat - 1 ∧ u.st.toNat = s.st.toNat - 1) ∧
        (decodeWord s.fetchWord = some (.ldDtVx x) → u.dt.toNat = (s.reg x).toNat - 1 ∧ u.st.toNat = s.st.toNat - 1) ∧
        (decodeWord s.fetchWord = some (.ldStVx x) → u.st.toNat = (s.reg x).toNat - 1 ∧ u.dt.toNat = s.dt.toNat - 1))

/-- R253 `LD Vx, K` (Fx0A): the lowest pressed key's index is stored and the step goes on to its tick, status OK; with none
pressed nothing at all is written and the step does not tick, status KEY_WAIT. -/
def Obligations.KeyWaitStoresTheLowestPressedKey : Prop :=
  ∀ x : RegIdx, decodeWord (wordOf (0xF00A + 256 * x.val)) = some (.ldVxK x) ∧
    ∀ s : State,
      (∀ k : KeyIdx, s.key[k.val] = true → (∀ j : KeyIdx, j.val < k.val → s.key[j.val] = false) →
        (∃ t, exec (.ldVxK x) s = .next t ∧ (t.reg x).toNat = k.val ∧ t.pc = s.pc + 2 ∧ ChangesOnly [x] [] s t) ∧
        s.execStatus (.ldVxK x) = .ok ∧
        (s.fault = 0 → s.pc.toNat ≤ 4094 → decodeWord s.fetchWord = some (.ldVxK x) →
          ∃ u, step s = .next u ∧ (u.reg x).toNat = k.val ∧ u.pc = s.pc + 2 ∧ u.dt.toNat = s.dt.toNat - 1 ∧
            u.st.toNat = s.st.toNat - 1)) ∧
      ((∀ k : KeyIdx, s.key[k.val] = false) →
        exec (.ldVxK x) s = .next s ∧ s.execStatus (.ldVxK x) = .keyWait ∧
        (s.fault = 0 → s.pc.toNat ≤ 4094 → decodeWord s.fetchWord = some (.ldVxK x) → step s = .next s))

/-- R362: with no key pressed the key wait holds the core for any number of steps, and a KeySet lifts it: the next step
stores the key and goes on. A run is made of steps alone (log entry 11). -/
def Obligations.KeyWaitHoldsUntilAKeyIsSet : Prop :=
  ∀ (s : State) (x : RegIdx) (k : KeyIdx), s.fault = 0 → s.pc.toNat ≤ 4094 → decodeWord s.fetchWord = some (.ldVxK x) →
    (∀ j : KeyIdx, s.key[j.val] = false) →
    (∀ n, ReachesIn n s s) ∧
    ∃ t, step (s.keySet k true) = .next t ∧ (t.reg x).toNat = k.val ∧ t.pc = s.pc + 2 ∧ t.dt.toNat = s.dt.toNat - 1

/-! ### The host's transactions -/

/-- R316 Load: everything or, with CapacityExceeded, nothing; only MEM is touched; no load once stepping has begun. -/
def Obligations.LoadCopiesAllBytesOrNone : Prop :=
  (∀ (s : State) (bytes : List Byte) (addr : Nat),
    (4096 < addr + bytes.length → s.loadBytes bytes addr = none) ∧
    (addr + bytes.length ≤ 4096 → ∃ t, s.loadBytes bytes addr = some t ∧
      (∀ k (_ : k < bytes.length), t.byteAt (addr + k) = bytes[k]) ∧
      (∀ a, a < addr ∨ addr + bytes.length ≤ a → t.byteAt a = s.byteAt a) ∧ t.pc = s.pc ∧
      ChangesOnly [] [.memory] s t)) ∧
  (∀ (s : State) (bytes : List Byte) (addr : Nat),
    Session.move (.stepping s) (.load bytes addr) = none ∧
    (∀ t, s.loadBytes bytes addr = some t → Session.move (.booting s) (.load bytes addr) = some (.booting t, .done)) ∧
    (4096 < addr + bytes.length → Session.move (.booting s) (.load bytes addr) = some (.loadFailed s, .capacityExceeded) ∧
      Session.move (.loadFailed s) .step = none))

/-- R313 KeySet: KEY[k] <- v and nothing else, in any session after reset, halted or not. -/
def Obligations.KeySetWritesOneKey : Prop :=
  ∀ (s : State) (k : KeyIdx) (v : Bool),
    (∀ j : KeyIdx, (s.keySet k v).key[j.val] = if j = k then v else s.key[j.val]) ∧
    { s.keySet k v with key := s.key } = s ∧
    Session.move (.booting s) (.keySet k v) = some (.booting (s.keySet k v), .done) ∧
    Session.move (.loadFailed s) (.keySet k v) = some (.loadFailed (s.keySet k v), .done) ∧
    Session.move (.stepping s) (.keySet k v) = some (.stepping (s.keySet k v), .done)

/-- R314, R315, R317: once stepping has begun, every host move but a step and a reset leaves the core as it was, KEY and
DIRTY apart; a read or a query changes nothing and answers what it reads, and nothing the host does sets DIRTY. -/
def Obligations.HostTouchesOnlyKeysAndDirtyBetweenSteps : Prop :=
  ∀ (s : State) (m : HostMove) (e : Session) (r : Reply), m ≠ .step → m ≠ .reset →
    Session.move (.stepping s) m = some (e, r) →
    ∃ t, e = .stepping t ∧ { t with key := s.key, dirty := s.dirty } = s ∧ (s.dirty = false → t.dirty = false) ∧
      (∀ k : Fin 2048, m = .fbRead k → t = s ∧ r = .bit (s.pixel k.val)) ∧
      (m = .dirtyQuery → t = s ∧ r = .bit s.dirty) ∧ (m = .observe → t = s ∧ r = .view s) ∧
      (m = .dirtyClear → t = { s with dirty := false })

/-- R353: after reset and a load at 0x200 that fits, the first step fetches the program's first two bytes. -/
def Obligations.LoadedProgramIsWhatTheFirstStepFetches : Prop :=
  ∀ (hi lo : Byte) (rest : List Byte), rest.length ≤ 3582 →
    ∃ t, Session.move .unreset .reset = some (.booting State.reset, .done) ∧
      Session.move (.booting State.reset) (.load (hi :: lo :: rest) 0x200) = some (.booting t, .done) ∧
      t.fetchCheck = none ∧ t.fetchWord.toNat = 256 * hi.toNat + lo.toNat ∧
      Session.move (.booting t) .step = some (.stepping t.stepped, .status (stepStatus t))
end

