-- ==== Sys2Proof/Laws/Encoding.lean ====
section
/-! SUPPORT. The fields of a formatted word (spec 30_encoding.md R91, R92), and the masks of the opcode map (R95) read as
numbers. -/

namespace Sys2Proof

section
variable (op : Nat) (x y : RegIdx) (kk : Byte) (nnn : Addr12) (low : Nat)

theorem toNat_formatA (h : op < 16) : (formatA op nnn).toNat = op * 4096 + nnn.toNat := by
  have := nnn.isLt
  simp [formatA]; omega

theorem toNat_formatXK (h : op < 16) : (formatXK op x kk).toNat = op * 4096 + x.val * 256 + kk.toNat := by
  have := kk.isLt
  have := x.isLt
  simp [formatXK]; omega

theorem toNat_formatXY (h : op < 16) (hl : low < 16) :
    (formatXY op x y low).toNat = op * 4096 + x.val * 256 + y.val * 16 + low := by
  have := x.isLt
  have := y.isLt
  simp [formatXY]; omega

theorem opField_formatA (h : op < 16) : opField (formatA op nnn) = op := by
  have := nnn.isLt
  rw [opField, toNat_formatA _ _ h]; omega

theorem nnnField_formatA (h : op < 16) : nnnField (formatA op nnn) = nnn := by
  apply BitVec.eq_of_toNat_eq
  have := nnn.isLt
  rw [nnnField, toNat_formatA _ _ h, BitVec.toNat_ofNat]; omega

theorem opField_formatXK (h : op < 16) : opField (formatXK op x kk) = op := by
  have := kk.isLt
  rw [opField, toNat_formatXK _ _ _ h]; omega

theorem xField_formatXK (h : op < 16) : xField (formatXK op x kk) = x := by
  apply Fin.ext
  have := kk.isLt
  rw [xField, toNat_formatXK _ _ _ h, Fin.val_ofNat]; omega

theorem kkField_formatXK (h : op < 16) : kkField (formatXK op x kk) = kk := by
  apply BitVec.eq_of_toNat_eq
  have := kk.isLt
  rw [kkField, toNat_formatXK _ _ _ h, BitVec.toNat_ofNat]; omega

theorem opField_formatXY (h : op < 16) (hl : low < 16) : opField (formatXY op x y low) = op := by
  rw [opField, toNat_formatXY _ _ _ _ h hl]; omega

theorem xField_formatXY (h : op < 16) (hl : low < 16) : xField (formatXY op x y low) = x := by
  apply Fin.ext
  rw [xField, toNat_formatXY _ _ _ _ h hl, Fin.val_ofNat]; omega

theorem yField_formatXY (h : op < 16) (hl : low < 16) : yField (formatXY op x y low) = y := by
  apply Fin.ext
  rw [yField, toNat_formatXY _ _ _ _ h hl, Fin.val_ofNat]; omega

theorem nField_formatXY (h : op < 16) (hl : low < 16) : (nField (formatXY op x y low)).val = low := by
  rw [nField, toNat_formatXY _ _ _ _ h hl, Fin.val_ofNat]; omega

end

/-- Every word is the bytes it is stored as, the high byte first (20_memory.md R64). -/
theorem wordOfBytes_hi_lo (w : Word) : wordOfBytes (hiByte w) (loByte w) = w := by
  apply BitVec.eq_of_toNat_eq
  have := w.isLt
  simp [wordOfBytes, hiByte, loByte]; omega

theorem toNat_wordOfBytes (hi lo : Byte) : (wordOfBytes hi lo).toNat = hi.toNat * 256 + lo.toNat := by
  have := hi.isLt
  have := lo.isLt
  simp [wordOfBytes]; omega

/-! ### The masks of R95 -/

theorem toNat_and_mask_group (w : Word) : (w &&& 0xF000#16).toNat = opField w * 4096 := by
  have h : w &&& 0xF000#16 = BitVec.ofNat 16 (opField w * 4096) := by
    apply BitVec.eq_of_getLsbD_eq
    intro i hi
    have e : opField w * 4096 = (w.toNat / 2 ^ 12) * 2 ^ 12 := rfl
    rw [BitVec.getLsbD_and, e, BitVec.getLsbD_ofNat (x := _ / _ * _), Nat.testBit_mul_two_pow, Nat.testBit_div_two_pow]
    by_cases h12 : 12 ≤ i
    · have hm : (0xF000#16).getLsbD i = true := by interval_cases i <;> rfl
      rw [hm]
      simp [h12, hi, BitVec.getLsbD, Nat.sub_add_cancel h12]
    · have hm : (0xF000#16).getLsbD i = false := by
        have : i < 12 := by omega
        interval_cases i <;> rfl
      simp [h12, hm]
  rw [h, BitVec.toNat_ofNat]
  have := w.isLt
  simp only [opField]; omega

theorem toNat_and_low (w : Word) (k : Nat) (hk : k ≤ 16) :
    (w &&& BitVec.ofNat 16 (2 ^ k - 1)).toNat = w.toNat % 2 ^ k := by
  have : 2 ^ k ≤ 2 ^ 16 := Nat.pow_le_pow_right (by decide) hk
  rw [BitVec.toNat_and, BitVec.toNat_ofNat, Nat.mod_eq_of_lt (by omega), Nat.and_two_pow_sub_one_eq_mod]

theorem toNat_and_mask_nibble (w : Word) : (w &&& 0xF00F#16).toNat = opField w * 4096 + w.toNat % 16 := by
  have h : w &&& 0xF00F#16 = (w &&& 0xF000#16) ||| (w &&& 0x000F#16) := by rw [← BitVec.and_or_distrib_left]; rfl
  have hl : (w &&& 0x000F#16).toNat = w.toNat % 16 := toNat_and_low w 4 (by decide)
  rw [h, BitVec.toNat_or, toNat_and_mask_group, hl]
  have := Nat.two_pow_add_eq_or_of_lt (i := 12) (b := w.toNat % 16) (by omega) (opField w)
  rw [Nat.mul_comm]; exact this.symm

theorem toNat_and_mask_byte (w : Word) : (w &&& 0xF0FF#16).toNat = opField w * 4096 + w.toNat % 256 := by
  have h : w &&& 0xF0FF#16 = (w &&& 0xF000#16) ||| (w &&& 0x00FF#16) := by rw [← BitVec.and_or_distrib_left]; rfl
  have hl : (w &&& 0x00FF#16).toNat = w.toNat % 256 := toNat_and_low w 8 (by decide)
  rw [h, BitVec.toNat_or, toNat_and_mask_group, hl]
  have := Nat.two_pow_add_eq_or_of_lt (i := 12) (b := w.toNat % 256) (by omega) (opField w)
  rw [Nat.mul_comm]; exact this.symm

theorem and_mask_word (w : Word) : w &&& 0xFFFF#16 = w := by
  apply BitVec.eq_of_toNat_eq
  have := toNat_and_low w 16 (by decide)
  have := w.isLt
  simp_all

end Sys2Proof
end

