-- ==== Sys2Proof/Laws/Memory.lean ====
section
/-! SUPPORT. The laws of memory: a read after writes, and the canonical form every write keeps. -/

namespace Sys2Proof.Machine

theorem memErase_cons (m : List Host.Cell) (a p : Nat) (d : Byte) :
    memErase ((p, d) :: m) a = if p = a then memErase m a else (p, d) :: memErase m a := by
  by_cases hp : p = a <;> simp [memErase, hp]

theorem memRead_memErase (m : List Host.Cell) (a c : Nat) :
    memRead (memErase m a) c = if c = a then resetByte a else memRead m c := by
  induction m with
  | nil => by_cases h : c = a <;> simp [memErase, memRead, h]
  | cons e m ih =>
    obtain ⟨p, d⟩ := e
    rw [memErase_cons]
    by_cases hp : p = a
    · rw [if_pos hp, ih]
      by_cases hc : c = a <;> simp [memRead, hc, hp]
    · rw [if_neg hp]
      simp only [memRead, ih]
      by_cases hc : c = p <;> simp [hc, hp]

theorem memErase_not_listed (m : List Host.Cell) (a : Nat) : ∀ e ∈ memErase m a, e.1 ≠ a := by
  simp [memErase]

theorem memRead_memInsert (a : Nat) (b : Byte) (m : List Host.Cell) (h : ∀ e ∈ m, e.1 ≠ a) (c : Nat) :
    memRead (memInsert a b m) c = if c = a then b else memRead m c := by
  induction m with
  | nil => simp [memInsert, memRead]
  | cons e m ih =>
    obtain ⟨p, d⟩ := e
    have hp : p ≠ a := h (p, d) (by simp)
    have ih := ih (fun e he => h e (by simp [he]))
    by_cases hlt : a < p
    · simp [memInsert, hlt, memRead]
    · simp only [memInsert, hlt, if_false, memRead, ih]
      by_cases hc : c = p <;> simp [hc, hp]

/-- A read after a write: the value written at its address, what stood before at every other (20_memory.md R68). -/
theorem memRead_memWrite (m : List Host.Cell) (a : Nat) (b : Byte) (c : Nat) :
    memRead (memWrite m a b) c = if c = a then b else memRead m c := by
  unfold memWrite
  split
  · next h => rw [memRead_memErase, h]
  · rw [memRead_memInsert _ _ _ (memErase_not_listed m a), memRead_memErase]
    split <;> simp_all

/-- A read after several writes in ascending addresses (20_memory.md R65). -/
theorem memRead_memWriteBytes (m : List Host.Cell) (a : Nat) (bs : List Byte) (c : Nat) :
    memRead (memWriteBytes m a bs) c =
      if a ≤ c ∧ c < a + bs.length then bs.getD (c - a) 0 else memRead m c := by
  induction bs generalizing m a with
  | nil => simp [memWriteBytes]
  | cons b bs ih =>
    simp only [memWriteBytes, ih, memRead_memWrite, List.length_cons]
    by_cases h1 : c = a
    · subst h1; simp
    · by_cases h2 : a + 1 ≤ c ∧ c < a + 1 + bs.length
      · have h3 : a ≤ c ∧ c < a + (bs.length + 1) := by omega
        have h4 : c - a = (c - (a + 1)) + 1 := by omega
        simp [h2, h3, h4]
      · have h3 : ¬ (a ≤ c ∧ c < a + (bs.length + 1)) := by omega
        rw [if_neg h2, if_neg h3, if_neg h1]

theorem Memory.wf_iff (m : List Host.Cell) :
    Memory.wf m = true ↔
      m.Pairwise (fun c d => c.1 < d.1) ∧ ∀ c ∈ m, c.1 ≤ 4095 ∧ c.2 ≠ resetByte c.1 := by
  simp [Memory.wf, validAddr, List.all_eq_true]

theorem Memory.wf_memErase (m : List Host.Cell) (a : Nat) (h : Memory.wf m = true) :
    Memory.wf (memErase m a) = true := by
  rw [Memory.wf_iff] at h ⊢
  exact ⟨h.1.filter _, fun c hc => h.2 c (List.mem_filter.1 hc).1⟩

theorem mem_memInsert (a : Nat) (b : Byte) (m : List Host.Cell) (e : Host.Cell) :
    e ∈ memInsert a b m ↔ e = (a, b) ∨ e ∈ m := by
  induction m with
  | nil => simp [memInsert]
  | cons f m ih =>
    obtain ⟨p, d⟩ := f
    by_cases hlt : a < p <;> simp [memInsert, hlt, ih]
    tauto

theorem Memory.wf_memInsert (a : Nat) (b : Byte) (m : List Host.Cell) (h : Memory.wf m = true)
    (hn : ∀ e ∈ m, e.1 ≠ a) (ha : a ≤ 4095) (hb : b ≠ resetByte a) : Memory.wf (memInsert a b m) = true := by
  rw [Memory.wf_iff] at h ⊢
  refine ⟨?_, fun c hc => ?_⟩
  · obtain ⟨h, -⟩ := h
    induction m with
    | nil => simp [memInsert]
    | cons f m ih =>
      obtain ⟨p, d⟩ := f
      have hp : p ≠ a := hn (p, d) (by simp)
      rw [List.pairwise_cons] at h
      by_cases hlt : a < p
      · simp only [memInsert, hlt, if_true, List.pairwise_cons]
        exact ⟨fun e he => by
          rcases List.mem_cons.1 he with rfl | he
          · exact hlt
          · exact lt_trans hlt (h.1 e he), h⟩
      · simp only [memInsert, hlt, if_false, List.pairwise_cons]
        refine ⟨fun e he => ?_, ih (fun e he => hn e (by simp [he])) h.2⟩
        rcases (mem_memInsert a b m e).1 he with rfl | he
        · show p < a; omega
        · exact h.1 e he
  · rcases (mem_memInsert a b m c).1 hc with rfl | hc
    · exact ⟨ha, hb⟩
    · exact h.2 c hc

/-- A write keeps the canonical form. -/
theorem Memory.wf_memWrite (m : List Host.Cell) (a : Nat) (b : Byte) (h : Memory.wf m = true) (ha : a ≤ 4095) :
    Memory.wf (memWrite m a b) = true := by
  unfold memWrite
  split
  · exact Memory.wf_memErase m a h
  · next hb => exact Memory.wf_memInsert a b _ (Memory.wf_memErase m a h) (memErase_not_listed m a) ha hb

/-- Writes of several bytes within 0..4095 keep the canonical form. -/
theorem Memory.wf_memWriteBytes (m : List Host.Cell) (a : Nat) (bs : List Byte) (h : Memory.wf m = true)
    (ha : a + bs.length ≤ 4096) : Memory.wf (memWriteBytes m a bs) = true := by
  induction bs generalizing m a with
  | nil => exact h
  | cons b bs ih =>
    simp only [List.length_cons] at ha
    exact ih _ _ (Memory.wf_memWrite m a b h (by omega)) (by omega)

end Sys2Proof.Machine
end

