-- ==== Sys2Proof/Laws/State.lean ====
section
/-! SUPPORT. One lemma per field per update of State, true by rfl, so that no later proof unfolds a record update. -/

namespace Sys2Proof.Machine

variable (s : State)

/-! ### setReg -/

@[simp] theorem State.setReg_i (y : RegIdx) (b : Byte) : (s.setReg y b).i = s.i := rfl
@[simp] theorem State.setReg_pc (y : RegIdx) (b : Byte) : (s.setReg y b).pc = s.pc := rfl
@[simp] theorem State.setReg_sp (y : RegIdx) (b : Byte) : (s.setReg y b).sp = s.sp := rfl
@[simp] theorem State.setReg_stack (y : RegIdx) (b : Byte) : (s.setReg y b).stack = s.stack := rfl
@[simp] theorem State.setReg_dt (y : RegIdx) (b : Byte) : (s.setReg y b).dt = s.dt := rfl
@[simp] theorem State.setReg_st (y : RegIdx) (b : Byte) : (s.setReg y b).st = s.st := rfl
@[simp] theorem State.setReg_mem (y : RegIdx) (b : Byte) : (s.setReg y b).mem = s.mem := rfl
@[simp] theorem State.setReg_fb (y : RegIdx) (b : Byte) : (s.setReg y b).fb = s.fb := rfl
@[simp] theorem State.setReg_dirty (y : RegIdx) (b : Byte) : (s.setReg y b).dirty = s.dirty := rfl
@[simp] theorem State.setReg_key (y : RegIdx) (b : Byte) : (s.setReg y b).key = s.key := rfl
@[simp] theorem State.setReg_fault (y : RegIdx) (b : Byte) : (s.setReg y b).fault = s.fault := rfl
@[simp] theorem State.setReg_draws (y : RegIdx) (b : Byte) : (s.setReg y b).draws = s.draws := rfl
@[simp] theorem State.setReg_byteAt (y : RegIdx) (b : Byte) (a : Nat) : (s.setReg y b).byteAt a = s.byteAt a := rfl
@[simp] theorem State.setReg_pixel (y : RegIdx) (b : Byte) (k : Nat) : (s.setReg y b).pixel k = s.pixel k := rfl
@[simp] theorem State.setReg_keyDown (y : RegIdx) (b : Byte) (k : Nat) : (s.setReg y b).keyDown k = s.keyDown k := rfl
@[simp] theorem State.setReg_lowestKey (y : RegIdx) (b : Byte) : (s.setReg y b).lowestKey = s.lowestKey := rfl
@[simp] theorem State.setReg_halted (y : RegIdx) (b : Byte) : (s.setReg y b).halted = s.halted := rfl
@[simp] theorem State.setReg_top (y : RegIdx) (b : Byte) : (s.setReg y b).top = s.top := rfl

/-! ### fillRegs -/

@[simp] theorem State.fillRegs_i (n : Nat) : (s.fillRegs n).i = s.i := rfl
@[simp] theorem State.fillRegs_pc (n : Nat) : (s.fillRegs n).pc = s.pc := rfl
@[simp] theorem State.fillRegs_sp (n : Nat) : (s.fillRegs n).sp = s.sp := rfl
@[simp] theorem State.fillRegs_stack (n : Nat) : (s.fillRegs n).stack = s.stack := rfl
@[simp] theorem State.fillRegs_dt (n : Nat) : (s.fillRegs n).dt = s.dt := rfl
@[simp] theorem State.fillRegs_st (n : Nat) : (s.fillRegs n).st = s.st := rfl
@[simp] theorem State.fillRegs_mem (n : Nat) : (s.fillRegs n).mem = s.mem := rfl
@[simp] theorem State.fillRegs_fb (n : Nat) : (s.fillRegs n).fb = s.fb := rfl
@[simp] theorem State.fillRegs_dirty (n : Nat) : (s.fillRegs n).dirty = s.dirty := rfl
@[simp] theorem State.fillRegs_key (n : Nat) : (s.fillRegs n).key = s.key := rfl
@[simp] theorem State.fillRegs_fault (n : Nat) : (s.fillRegs n).fault = s.fault := rfl
@[simp] theorem State.fillRegs_draws (n : Nat) : (s.fillRegs n).draws = s.draws := rfl
@[simp] theorem State.fillRegs_byteAt (n : Nat) (a : Nat) : (s.fillRegs n).byteAt a = s.byteAt a := rfl
@[simp] theorem State.fillRegs_pixel (n : Nat) (k : Nat) : (s.fillRegs n).pixel k = s.pixel k := rfl
@[simp] theorem State.fillRegs_keyDown (n : Nat) (k : Nat) : (s.fillRegs n).keyDown k = s.keyDown k := rfl
@[simp] theorem State.fillRegs_lowestKey (n : Nat) : (s.fillRegs n).lowestKey = s.lowestKey := rfl
@[simp] theorem State.fillRegs_halted (n : Nat) : (s.fillRegs n).halted = s.halted := rfl
@[simp] theorem State.fillRegs_top (n : Nat) : (s.fillRegs n).top = s.top := rfl

/-! ### setFlag -/

@[simp] theorem State.setFlag_i (c : Bool) : (s.setFlag c).i = s.i := rfl
@[simp] theorem State.setFlag_pc (c : Bool) : (s.setFlag c).pc = s.pc := rfl
@[simp] theorem State.setFlag_sp (c : Bool) : (s.setFlag c).sp = s.sp := rfl
@[simp] theorem State.setFlag_stack (c : Bool) : (s.setFlag c).stack = s.stack := rfl
@[simp] theorem State.setFlag_dt (c : Bool) : (s.setFlag c).dt = s.dt := rfl
@[simp] theorem State.setFlag_st (c : Bool) : (s.setFlag c).st = s.st := rfl
@[simp] theorem State.setFlag_mem (c : Bool) : (s.setFlag c).mem = s.mem := rfl
@[simp] theorem State.setFlag_fb (c : Bool) : (s.setFlag c).fb = s.fb := rfl
@[simp] theorem State.setFlag_dirty (c : Bool) : (s.setFlag c).dirty = s.dirty := rfl
@[simp] theorem State.setFlag_key (c : Bool) : (s.setFlag c).key = s.key := rfl
@[simp] theorem State.setFlag_fault (c : Bool) : (s.setFlag c).fault = s.fault := rfl
@[simp] theorem State.setFlag_draws (c : Bool) : (s.setFlag c).draws = s.draws := rfl
@[simp] theorem State.setFlag_byteAt (c : Bool) (a : Nat) : (s.setFlag c).byteAt a = s.byteAt a := rfl
@[simp] theorem State.setFlag_pixel (c : Bool) (k : Nat) : (s.setFlag c).pixel k = s.pixel k := rfl
@[simp] theorem State.setFlag_keyDown (c : Bool) (k : Nat) : (s.setFlag c).keyDown k = s.keyDown k := rfl
@[simp] theorem State.setFlag_lowestKey (c : Bool) : (s.setFlag c).lowestKey = s.lowestKey := rfl
@[simp] theorem State.setFlag_halted (c : Bool) : (s.setFlag c).halted = s.halted := rfl
@[simp] theorem State.setFlag_top (c : Bool) : (s.setFlag c).top = s.top := rfl

/-! ### setFlagThenReg -/

@[simp] theorem State.setFlagThenReg_i (c : Bool) (y : RegIdx) (b : Byte) : (s.setFlagThenReg c y b).i = s.i := rfl
@[simp] theorem State.setFlagThenReg_pc (c : Bool) (y : RegIdx) (b : Byte) : (s.setFlagThenReg c y b).pc = s.pc := rfl
@[simp] theorem State.setFlagThenReg_sp (c : Bool) (y : RegIdx) (b : Byte) : (s.setFlagThenReg c y b).sp = s.sp := rfl
@[simp] theorem State.setFlagThenReg_stack (c : Bool) (y : RegIdx) (b : Byte) : (s.setFlagThenReg c y b).stack = s.stack := rfl
@[simp] theorem State.setFlagThenReg_dt (c : Bool) (y : RegIdx) (b : Byte) : (s.setFlagThenReg c y b).dt = s.dt := rfl
@[simp] theorem State.setFlagThenReg_st (c : Bool) (y : RegIdx) (b : Byte) : (s.setFlagThenReg c y b).st = s.st := rfl
@[simp] theorem State.setFlagThenReg_mem (c : Bool) (y : RegIdx) (b : Byte) : (s.setFlagThenReg c y b).mem = s.mem := rfl
@[simp] theorem State.setFlagThenReg_fb (c : Bool) (y : RegIdx) (b : Byte) : (s.setFlagThenReg c y b).fb = s.fb := rfl
@[simp] theorem State.setFlagThenReg_dirty (c : Bool) (y : RegIdx) (b : Byte) : (s.setFlagThenReg c y b).dirty = s.dirty := rfl
@[simp] theorem State.setFlagThenReg_key (c : Bool) (y : RegIdx) (b : Byte) : (s.setFlagThenReg c y b).key = s.key := rfl
@[simp] theorem State.setFlagThenReg_fault (c : Bool) (y : RegIdx) (b : Byte) : (s.setFlagThenReg c y b).fault = s.fault := rfl
@[simp] theorem State.setFlagThenReg_draws (c : Bool) (y : RegIdx) (b : Byte) : (s.setFlagThenReg c y b).draws = s.draws := rfl
@[simp] theorem State.setFlagThenReg_byteAt (c : Bool) (y : RegIdx) (b : Byte) (a : Nat) : (s.setFlagThenReg c y b).byteAt a = s.byteAt a := rfl
@[simp] theorem State.setFlagThenReg_pixel (c : Bool) (y : RegIdx) (b : Byte) (k : Nat) : (s.setFlagThenReg c y b).pixel k = s.pixel k := rfl
@[simp] theorem State.setFlagThenReg_keyDown (c : Bool) (y : RegIdx) (b : Byte) (k : Nat) : (s.setFlagThenReg c y b).keyDown k = s.keyDown k := rfl
@[simp] theorem State.setFlagThenReg_lowestKey (c : Bool) (y : RegIdx) (b : Byte) : (s.setFlagThenReg c y b).lowestKey = s.lowestKey := rfl
@[simp] theorem State.setFlagThenReg_halted (c : Bool) (y : RegIdx) (b : Byte) : (s.setFlagThenReg c y b).halted = s.halted := rfl
@[simp] theorem State.setFlagThenReg_top (c : Bool) (y : RegIdx) (b : Byte) : (s.setFlagThenReg c y b).top = s.top := rfl

/-! ### setI -/

@[simp] theorem State.setI_v (w : Word) : (s.setI w).v = s.v := rfl
@[simp] theorem State.setI_i (w : Word) : (s.setI w).i = w := rfl
@[simp] theorem State.setI_pc (w : Word) : (s.setI w).pc = s.pc := rfl
@[simp] theorem State.setI_sp (w : Word) : (s.setI w).sp = s.sp := rfl
@[simp] theorem State.setI_stack (w : Word) : (s.setI w).stack = s.stack := rfl
@[simp] theorem State.setI_dt (w : Word) : (s.setI w).dt = s.dt := rfl
@[simp] theorem State.setI_st (w : Word) : (s.setI w).st = s.st := rfl
@[simp] theorem State.setI_mem (w : Word) : (s.setI w).mem = s.mem := rfl
@[simp] theorem State.setI_fb (w : Word) : (s.setI w).fb = s.fb := rfl
@[simp] theorem State.setI_dirty (w : Word) : (s.setI w).dirty = s.dirty := rfl
@[simp] theorem State.setI_key (w : Word) : (s.setI w).key = s.key := rfl
@[simp] theorem State.setI_fault (w : Word) : (s.setI w).fault = s.fault := rfl
@[simp] theorem State.setI_draws (w : Word) : (s.setI w).draws = s.draws := rfl
@[simp] theorem State.setI_reg (w : Word) (x : RegIdx) : (s.setI w).reg x = s.reg x := rfl
@[simp] theorem State.setI_byteAt (w : Word) (a : Nat) : (s.setI w).byteAt a = s.byteAt a := rfl
@[simp] theorem State.setI_pixel (w : Word) (k : Nat) : (s.setI w).pixel k = s.pixel k := rfl
@[simp] theorem State.setI_keyDown (w : Word) (k : Nat) : (s.setI w).keyDown k = s.keyDown k := rfl
@[simp] theorem State.setI_lowestKey (w : Word) : (s.setI w).lowestKey = s.lowestKey := rfl
@[simp] theorem State.setI_halted (w : Word) : (s.setI w).halted = s.halted := rfl
@[simp] theorem State.setI_top (w : Word) : (s.setI w).top = s.top := rfl

/-! ### setPc -/

@[simp] theorem State.setPc_v (w : Word) : (s.setPc w).v = s.v := rfl
@[simp] theorem State.setPc_i (w : Word) : (s.setPc w).i = s.i := rfl
@[simp] theorem State.setPc_pc (w : Word) : (s.setPc w).pc = w := rfl
@[simp] theorem State.setPc_sp (w : Word) : (s.setPc w).sp = s.sp := rfl
@[simp] theorem State.setPc_stack (w : Word) : (s.setPc w).stack = s.stack := rfl
@[simp] theorem State.setPc_dt (w : Word) : (s.setPc w).dt = s.dt := rfl
@[simp] theorem State.setPc_st (w : Word) : (s.setPc w).st = s.st := rfl
@[simp] theorem State.setPc_mem (w : Word) : (s.setPc w).mem = s.mem := rfl
@[simp] theorem State.setPc_fb (w : Word) : (s.setPc w).fb = s.fb := rfl
@[simp] theorem State.setPc_dirty (w : Word) : (s.setPc w).dirty = s.dirty := rfl
@[simp] theorem State.setPc_key (w : Word) : (s.setPc w).key = s.key := rfl
@[simp] theorem State.setPc_fault (w : Word) : (s.setPc w).fault = s.fault := rfl
@[simp] theorem State.setPc_draws (w : Word) : (s.setPc w).draws = s.draws := rfl
@[simp] theorem State.setPc_reg (w : Word) (x : RegIdx) : (s.setPc w).reg x = s.reg x := rfl
@[simp] theorem State.setPc_byteAt (w : Word) (a : Nat) : (s.setPc w).byteAt a = s.byteAt a := rfl
@[simp] theorem State.setPc_pixel (w : Word) (k : Nat) : (s.setPc w).pixel k = s.pixel k := rfl
@[simp] theorem State.setPc_keyDown (w : Word) (k : Nat) : (s.setPc w).keyDown k = s.keyDown k := rfl
@[simp] theorem State.setPc_lowestKey (w : Word) : (s.setPc w).lowestKey = s.lowestKey := rfl
@[simp] theorem State.setPc_halted (w : Word) : (s.setPc w).halted = s.halted := rfl
@[simp] theorem State.setPc_top (w : Word) : (s.setPc w).top = s.top := rfl

/-! ### advance -/

@[simp] theorem State.advance_v : s.advance.v = s.v := rfl
@[simp] theorem State.advance_i : s.advance.i = s.i := rfl
@[simp] theorem State.advance_pc : s.advance.pc = s.pc + 2 := rfl
@[simp] theorem State.advance_sp : s.advance.sp = s.sp := rfl
@[simp] theorem State.advance_stack : s.advance.stack = s.stack := rfl
@[simp] theorem State.advance_dt : s.advance.dt = s.dt := rfl
@[simp] theorem State.advance_st : s.advance.st = s.st := rfl
@[simp] theorem State.advance_mem : s.advance.mem = s.mem := rfl
@[simp] theorem State.advance_fb : s.advance.fb = s.fb := rfl
@[simp] theorem State.advance_dirty : s.advance.dirty = s.dirty := rfl
@[simp] theorem State.advance_key : s.advance.key = s.key := rfl
@[simp] theorem State.advance_fault : s.advance.fault = s.fault := rfl
@[simp] theorem State.advance_draws : s.advance.draws = s.draws := rfl
@[simp] theorem State.advance_reg (x : RegIdx) : s.advance.reg x = s.reg x := rfl
@[simp] theorem State.advance_byteAt (a : Nat) : s.advance.byteAt a = s.byteAt a := rfl
@[simp] theorem State.advance_pixel (k : Nat) : s.advance.pixel k = s.pixel k := rfl
@[simp] theorem State.advance_keyDown (k : Nat) : s.advance.keyDown k = s.keyDown k := rfl
@[simp] theorem State.advance_lowestKey : s.advance.lowestKey = s.lowestKey := rfl
@[simp] theorem State.advance_halted : s.advance.halted = s.halted := rfl
@[simp] theorem State.advance_top : s.advance.top = s.top := rfl

/-! ### skipIf -/

@[simp] theorem State.skipIf_v (c : Bool) : (s.skipIf c).v = s.v := rfl
@[simp] theorem State.skipIf_i (c : Bool) : (s.skipIf c).i = s.i := rfl
@[simp] theorem State.skipIf_pc (c : Bool) : (s.skipIf c).pc = if c then s.pc + 4 else s.pc + 2 := rfl
@[simp] theorem State.skipIf_sp (c : Bool) : (s.skipIf c).sp = s.sp := rfl
@[simp] theorem State.skipIf_stack (c : Bool) : (s.skipIf c).stack = s.stack := rfl
@[simp] theorem State.skipIf_dt (c : Bool) : (s.skipIf c).dt = s.dt := rfl
@[simp] theorem State.skipIf_st (c : Bool) : (s.skipIf c).st = s.st := rfl
@[simp] theorem State.skipIf_mem (c : Bool) : (s.skipIf c).mem = s.mem := rfl
@[simp] theorem State.skipIf_fb (c : Bool) : (s.skipIf c).fb = s.fb := rfl
@[simp] theorem State.skipIf_dirty (c : Bool) : (s.skipIf c).dirty = s.dirty := rfl
@[simp] theorem State.skipIf_key (c : Bool) : (s.skipIf c).key = s.key := rfl
@[simp] theorem State.skipIf_fault (c : Bool) : (s.skipIf c).fault = s.fault := rfl
@[simp] theorem State.skipIf_draws (c : Bool) : (s.skipIf c).draws = s.draws := rfl
@[simp] theorem State.skipIf_reg (c : Bool) (x : RegIdx) : (s.skipIf c).reg x = s.reg x := rfl
@[simp] theorem State.skipIf_byteAt (c : Bool) (a : Nat) : (s.skipIf c).byteAt a = s.byteAt a := rfl
@[simp] theorem State.skipIf_pixel (c : Bool) (k : Nat) : (s.skipIf c).pixel k = s.pixel k := rfl
@[simp] theorem State.skipIf_keyDown (c : Bool) (k : Nat) : (s.skipIf c).keyDown k = s.keyDown k := rfl
@[simp] theorem State.skipIf_lowestKey (c : Bool) : (s.skipIf c).lowestKey = s.lowestKey := rfl
@[simp] theorem State.skipIf_halted (c : Bool) : (s.skipIf c).halted = s.halted := rfl
@[simp] theorem State.skipIf_top (c : Bool) : (s.skipIf c).top = s.top := rfl

/-! ### storeBytes -/

@[simp] theorem State.storeBytes_v (p : Nat) (bs : List Byte) : (s.storeBytes p bs).v = s.v := rfl
@[simp] theorem State.storeBytes_i (p : Nat) (bs : List Byte) : (s.storeBytes p bs).i = s.i := rfl
@[simp] theorem State.storeBytes_pc (p : Nat) (bs : List Byte) : (s.storeBytes p bs).pc = s.pc := rfl
@[simp] theorem State.storeBytes_sp (p : Nat) (bs : List Byte) : (s.storeBytes p bs).sp = s.sp := rfl
@[simp] theorem State.storeBytes_stack (p : Nat) (bs : List Byte) : (s.storeBytes p bs).stack = s.stack := rfl
@[simp] theorem State.storeBytes_dt (p : Nat) (bs : List Byte) : (s.storeBytes p bs).dt = s.dt := rfl
@[simp] theorem State.storeBytes_st (p : Nat) (bs : List Byte) : (s.storeBytes p bs).st = s.st := rfl
@[simp] theorem State.storeBytes_mem (p : Nat) (bs : List Byte) : (s.storeBytes p bs).mem = memWriteBytes s.mem p bs := rfl
@[simp] theorem State.storeBytes_fb (p : Nat) (bs : List Byte) : (s.storeBytes p bs).fb = s.fb := rfl
@[simp] theorem State.storeBytes_dirty (p : Nat) (bs : List Byte) : (s.storeBytes p bs).dirty = s.dirty := rfl
@[simp] theorem State.storeBytes_key (p : Nat) (bs : List Byte) : (s.storeBytes p bs).key = s.key := rfl
@[simp] theorem State.storeBytes_fault (p : Nat) (bs : List Byte) : (s.storeBytes p bs).fault = s.fault := rfl
@[simp] theorem State.storeBytes_draws (p : Nat) (bs : List Byte) : (s.storeBytes p bs).draws = s.draws := rfl
@[simp] theorem State.storeBytes_reg (p : Nat) (bs : List Byte) (x : RegIdx) : (s.storeBytes p bs).reg x = s.reg x := rfl
@[simp] theorem State.storeBytes_pixel (p : Nat) (bs : List Byte) (k : Nat) : (s.storeBytes p bs).pixel k = s.pixel k := rfl
@[simp] theorem State.storeBytes_keyDown (p : Nat) (bs : List Byte) (k : Nat) : (s.storeBytes p bs).keyDown k = s.keyDown k := rfl
@[simp] theorem State.storeBytes_lowestKey (p : Nat) (bs : List Byte) : (s.storeBytes p bs).lowestKey = s.lowestKey := rfl
@[simp] theorem State.storeBytes_halted (p : Nat) (bs : List Byte) : (s.storeBytes p bs).halted = s.halted := rfl
@[simp] theorem State.storeBytes_top (p : Nat) (bs : List Byte) : (s.storeBytes p bs).top = s.top := rfl

/-! ### push -/

@[simp] theorem State.push_v (w : Word) : (s.push w).v = s.v := rfl
@[simp] theorem State.push_i (w : Word) : (s.push w).i = s.i := rfl
@[simp] theorem State.push_pc (w : Word) : (s.push w).pc = s.pc := rfl
@[simp] theorem State.push_sp (w : Word) : (s.push w).sp = s.sp + 1 := rfl
@[simp] theorem State.push_stack (w : Word) : (s.push w).stack = s.stack.setIfInBounds s.sp.val w := rfl
@[simp] theorem State.push_dt (w : Word) : (s.push w).dt = s.dt := rfl
@[simp] theorem State.push_st (w : Word) : (s.push w).st = s.st := rfl
@[simp] theorem State.push_mem (w : Word) : (s.push w).mem = s.mem := rfl
@[simp] theorem State.push_fb (w : Word) : (s.push w).fb = s.fb := rfl
@[simp] theorem State.push_dirty (w : Word) : (s.push w).dirty = s.dirty := rfl
@[simp] theorem State.push_key (w : Word) : (s.push w).key = s.key := rfl
@[simp] theorem State.push_fault (w : Word) : (s.push w).fault = s.fault := rfl
@[simp] theorem State.push_draws (w : Word) : (s.push w).draws = s.draws := rfl
@[simp] theorem State.push_reg (w : Word) (x : RegIdx) : (s.push w).reg x = s.reg x := rfl
@[simp] theorem State.push_byteAt (w : Word) (a : Nat) : (s.push w).byteAt a = s.byteAt a := rfl
@[simp] theorem State.push_pixel (w : Word) (k : Nat) : (s.push w).pixel k = s.pixel k := rfl
@[simp] theorem State.push_keyDown (w : Word) (k : Nat) : (s.push w).keyDown k = s.keyDown k := rfl
@[simp] theorem State.push_lowestKey (w : Word) : (s.push w).lowestKey = s.lowestKey := rfl
@[simp] theorem State.push_halted (w : Word) : (s.push w).halted = s.halted := rfl

/-! ### pop -/

@[simp] theorem State.pop_v : s.pop.v = s.v := rfl
@[simp] theorem State.pop_i : s.pop.i = s.i := rfl
@[simp] theorem State.pop_pc : s.pop.pc = s.pc := rfl
@[simp] theorem State.pop_sp : s.pop.sp = s.sp - 1 := rfl
@[simp] theorem State.pop_stack : s.pop.stack = s.stack := rfl
@[simp] theorem State.pop_dt : s.pop.dt = s.dt := rfl
@[simp] theorem State.pop_st : s.pop.st = s.st := rfl
@[simp] theorem State.pop_mem : s.pop.mem = s.mem := rfl
@[simp] theorem State.pop_fb : s.pop.fb = s.fb := rfl
@[simp] theorem State.pop_dirty : s.pop.dirty = s.dirty := rfl
@[simp] theorem State.pop_key : s.pop.key = s.key := rfl
@[simp] theorem State.pop_fault : s.pop.fault = s.fault := rfl
@[simp] theorem State.pop_draws : s.pop.draws = s.draws := rfl
@[simp] theorem State.pop_reg (x : RegIdx) : s.pop.reg x = s.reg x := rfl
@[simp] theorem State.pop_byteAt (a : Nat) : s.pop.byteAt a = s.byteAt a := rfl
@[simp] theorem State.pop_pixel (k : Nat) : s.pop.pixel k = s.pixel k := rfl
@[simp] theorem State.pop_keyDown (k : Nat) : s.pop.keyDown k = s.keyDown k := rfl
@[simp] theorem State.pop_lowestKey : s.pop.lowestKey = s.lowestKey := rfl
@[simp] theorem State.pop_halted : s.pop.halted = s.halted := rfl

/-! ### setDt -/

@[simp] theorem State.setDt_v (b : Byte) : (s.setDt b).v = s.v := rfl
@[simp] theorem State.setDt_i (b : Byte) : (s.setDt b).i = s.i := rfl
@[simp] theorem State.setDt_pc (b : Byte) : (s.setDt b).pc = s.pc := rfl
@[simp] theorem State.setDt_sp (b : Byte) : (s.setDt b).sp = s.sp := rfl
@[simp] theorem State.setDt_stack (b : Byte) : (s.setDt b).stack = s.stack := rfl
@[simp] theorem State.setDt_dt (b : Byte) : (s.setDt b).dt = b := rfl
@[simp] theorem State.setDt_st (b : Byte) : (s.setDt b).st = s.st := rfl
@[simp] theorem State.setDt_mem (b : Byte) : (s.setDt b).mem = s.mem := rfl
@[simp] theorem State.setDt_fb (b : Byte) : (s.setDt b).fb = s.fb := rfl
@[simp] theorem State.setDt_dirty (b : Byte) : (s.setDt b).dirty = s.dirty := rfl
@[simp] theorem State.setDt_key (b : Byte) : (s.setDt b).key = s.key := rfl
@[simp] theorem State.setDt_fault (b : Byte) : (s.setDt b).fault = s.fault := rfl
@[simp] theorem State.setDt_draws (b : Byte) : (s.setDt b).draws = s.draws := rfl
@[simp] theorem State.setDt_reg (b : Byte) (x : RegIdx) : (s.setDt b).reg x = s.reg x := rfl
@[simp] theorem State.setDt_byteAt (b : Byte) (a : Nat) : (s.setDt b).byteAt a = s.byteAt a := rfl
@[simp] theorem State.setDt_pixel (b : Byte) (k : Nat) : (s.setDt b).pixel k = s.pixel k := rfl
@[simp] theorem State.setDt_keyDown (b : Byte) (k : Nat) : (s.setDt b).keyDown k = s.keyDown k := rfl
@[simp] theorem State.setDt_lowestKey (b : Byte) : (s.setDt b).lowestKey = s.lowestKey := rfl
@[simp] theorem State.setDt_halted (b : Byte) : (s.setDt b).halted = s.halted := rfl
@[simp] theorem State.setDt_top (b : Byte) : (s.setDt b).top = s.top := rfl

/-! ### setSt -/

@[simp] theorem State.setSt_v (b : Byte) : (s.setSt b).v = s.v := rfl
@[simp] theorem State.setSt_i (b : Byte) : (s.setSt b).i = s.i := rfl
@[simp] theorem State.setSt_pc (b : Byte) : (s.setSt b).pc = s.pc := rfl
@[simp] theorem State.setSt_sp (b : Byte) : (s.setSt b).sp = s.sp := rfl
@[simp] theorem State.setSt_stack (b : Byte) : (s.setSt b).stack = s.stack := rfl
@[simp] theorem State.setSt_dt (b : Byte) : (s.setSt b).dt = s.dt := rfl
@[simp] theorem State.setSt_st (b : Byte) : (s.setSt b).st = b := rfl
@[simp] theorem State.setSt_mem (b : Byte) : (s.setSt b).mem = s.mem := rfl
@[simp] theorem State.setSt_fb (b : Byte) : (s.setSt b).fb = s.fb := rfl
@[simp] theorem State.setSt_dirty (b : Byte) : (s.setSt b).dirty = s.dirty := rfl
@[simp] theorem State.setSt_key (b : Byte) : (s.setSt b).key = s.key := rfl
@[simp] theorem State.setSt_fault (b : Byte) : (s.setSt b).fault = s.fault := rfl
@[simp] theorem State.setSt_draws (b : Byte) : (s.setSt b).draws = s.draws := rfl
@[simp] theorem State.setSt_reg (b : Byte) (x : RegIdx) : (s.setSt b).reg x = s.reg x := rfl
@[simp] theorem State.setSt_byteAt (b : Byte) (a : Nat) : (s.setSt b).byteAt a = s.byteAt a := rfl
@[simp] theorem State.setSt_pixel (b : Byte) (k : Nat) : (s.setSt b).pixel k = s.pixel k := rfl
@[simp] theorem State.setSt_keyDown (b : Byte) (k : Nat) : (s.setSt b).keyDown k = s.keyDown k := rfl
@[simp] theorem State.setSt_lowestKey (b : Byte) : (s.setSt b).lowestKey = s.lowestKey := rfl
@[simp] theorem State.setSt_halted (b : Byte) : (s.setSt b).halted = s.halted := rfl
@[simp] theorem State.setSt_top (b : Byte) : (s.setSt b).top = s.top := rfl

/-! ### tick -/

@[simp] theorem State.tick_v : s.tick.v = s.v := rfl
@[simp] theorem State.tick_i : s.tick.i = s.i := rfl
@[simp] theorem State.tick_pc : s.tick.pc = s.pc := rfl
@[simp] theorem State.tick_sp : s.tick.sp = s.sp := rfl
@[simp] theorem State.tick_stack : s.tick.stack = s.stack := rfl
@[simp] theorem State.tick_dt : s.tick.dt = timerDec s.dt := rfl
@[simp] theorem State.tick_st : s.tick.st = timerDec s.st := rfl
@[simp] theorem State.tick_mem : s.tick.mem = s.mem := rfl
@[simp] theorem State.tick_fb : s.tick.fb = s.fb := rfl
@[simp] theorem State.tick_dirty : s.tick.dirty = s.dirty := rfl
@[simp] theorem State.tick_key : s.tick.key = s.key := rfl
@[simp] theorem State.tick_fault : s.tick.fault = s.fault := rfl
@[simp] theorem State.tick_draws : s.tick.draws = s.draws := rfl
@[simp] theorem State.tick_reg (x : RegIdx) : s.tick.reg x = s.reg x := rfl
@[simp] theorem State.tick_byteAt (a : Nat) : s.tick.byteAt a = s.byteAt a := rfl
@[simp] theorem State.tick_pixel (k : Nat) : s.tick.pixel k = s.pixel k := rfl
@[simp] theorem State.tick_keyDown (k : Nat) : s.tick.keyDown k = s.keyDown k := rfl
@[simp] theorem State.tick_lowestKey : s.tick.lowestKey = s.lowestKey := rfl
@[simp] theorem State.tick_halted : s.tick.halted = s.halted := rfl
@[simp] theorem State.tick_top : s.tick.top = s.top := rfl

/-! ### paint -/

@[simp] theorem State.paint_v (f : Screen) : (s.paint f).v = s.v := rfl
@[simp] theorem State.paint_i (f : Screen) : (s.paint f).i = s.i := rfl
@[simp] theorem State.paint_pc (f : Screen) : (s.paint f).pc = s.pc := rfl
@[simp] theorem State.paint_sp (f : Screen) : (s.paint f).sp = s.sp := rfl
@[simp] theorem State.paint_stack (f : Screen) : (s.paint f).stack = s.stack := rfl
@[simp] theorem State.paint_dt (f : Screen) : (s.paint f).dt = s.dt := rfl
@[simp] theorem State.paint_st (f : Screen) : (s.paint f).st = s.st := rfl
@[simp] theorem State.paint_mem (f : Screen) : (s.paint f).mem = s.mem := rfl
@[simp] theorem State.paint_fb (f : Screen) : (s.paint f).fb = f := rfl
@[simp] theorem State.paint_dirty (f : Screen) : (s.paint f).dirty = true := rfl
@[simp] theorem State.paint_key (f : Screen) : (s.paint f).key = s.key := rfl
@[simp] theorem State.paint_fault (f : Screen) : (s.paint f).fault = s.fault := rfl
@[simp] theorem State.paint_draws (f : Screen) : (s.paint f).draws = s.draws := rfl
@[simp] theorem State.paint_reg (f : Screen) (x : RegIdx) : (s.paint f).reg x = s.reg x := rfl
@[simp] theorem State.paint_byteAt (f : Screen) (a : Nat) : (s.paint f).byteAt a = s.byteAt a := rfl
@[simp] theorem State.paint_keyDown (f : Screen) (k : Nat) : (s.paint f).keyDown k = s.keyDown k := rfl
@[simp] theorem State.paint_lowestKey (f : Screen) : (s.paint f).lowestKey = s.lowestKey := rfl
@[simp] theorem State.paint_halted (f : Screen) : (s.paint f).halted = s.halted := rfl
@[simp] theorem State.paint_top (f : Screen) : (s.paint f).top = s.top := rfl

/-! ### nextDraw -/

@[simp] theorem State.nextDraw_v : s.nextDraw.v = s.v := rfl
@[simp] theorem State.nextDraw_i : s.nextDraw.i = s.i := rfl
@[simp] theorem State.nextDraw_pc : s.nextDraw.pc = s.pc := rfl
@[simp] theorem State.nextDraw_sp : s.nextDraw.sp = s.sp := rfl
@[simp] theorem State.nextDraw_stack : s.nextDraw.stack = s.stack := rfl
@[simp] theorem State.nextDraw_dt : s.nextDraw.dt = s.dt := rfl
@[simp] theorem State.nextDraw_st : s.nextDraw.st = s.st := rfl
@[simp] theorem State.nextDraw_mem : s.nextDraw.mem = s.mem := rfl
@[simp] theorem State.nextDraw_fb : s.nextDraw.fb = s.fb := rfl
@[simp] theorem State.nextDraw_dirty : s.nextDraw.dirty = s.dirty := rfl
@[simp] theorem State.nextDraw_key : s.nextDraw.key = s.key := rfl
@[simp] theorem State.nextDraw_fault : s.nextDraw.fault = s.fault := rfl
@[simp] theorem State.nextDraw_draws : s.nextDraw.draws = s.draws + 1 := rfl
@[simp] theorem State.nextDraw_reg (x : RegIdx) : s.nextDraw.reg x = s.reg x := rfl
@[simp] theorem State.nextDraw_byteAt (a : Nat) : s.nextDraw.byteAt a = s.byteAt a := rfl
@[simp] theorem State.nextDraw_pixel (k : Nat) : s.nextDraw.pixel k = s.pixel k := rfl
@[simp] theorem State.nextDraw_keyDown (k : Nat) : s.nextDraw.keyDown k = s.keyDown k := rfl
@[simp] theorem State.nextDraw_lowestKey : s.nextDraw.lowestKey = s.lowestKey := rfl
@[simp] theorem State.nextDraw_halted : s.nextDraw.halted = s.halted := rfl
@[simp] theorem State.nextDraw_top : s.nextDraw.top = s.top := rfl

/-! ### raise -/

@[simp] theorem State.raise_v (r : Raise) : (s.raise r).v = s.v := rfl
@[simp] theorem State.raise_i (r : Raise) : (s.raise r).i = s.i := rfl
@[simp] theorem State.raise_pc (r : Raise) : (s.raise r).pc = s.pc := rfl
@[simp] theorem State.raise_sp (r : Raise) : (s.raise r).sp = s.sp := rfl
@[simp] theorem State.raise_stack (r : Raise) : (s.raise r).stack = s.stack := rfl
@[simp] theorem State.raise_dt (r : Raise) : (s.raise r).dt = s.dt := rfl
@[simp] theorem State.raise_st (r : Raise) : (s.raise r).st = s.st := rfl
@[simp] theorem State.raise_mem (r : Raise) : (s.raise r).mem = s.mem := rfl
@[simp] theorem State.raise_fb (r : Raise) : (s.raise r).fb = s.fb := rfl
@[simp] theorem State.raise_dirty (r : Raise) : (s.raise r).dirty = s.dirty := rfl
@[simp] theorem State.raise_key (r : Raise) : (s.raise r).key = s.key := rfl
@[simp] theorem State.raise_fault (r : Raise) : (s.raise r).fault = r.cause.code := rfl
@[simp] theorem State.raise_draws (r : Raise) : (s.raise r).draws = s.draws := rfl
@[simp] theorem State.raise_reg (r : Raise) (x : RegIdx) : (s.raise r).reg x = s.reg x := rfl
@[simp] theorem State.raise_byteAt (r : Raise) (a : Nat) : (s.raise r).byteAt a = s.byteAt a := rfl
@[simp] theorem State.raise_pixel (r : Raise) (k : Nat) : (s.raise r).pixel k = s.pixel k := rfl
@[simp] theorem State.raise_keyDown (r : Raise) (k : Nat) : (s.raise r).keyDown k = s.keyDown k := rfl
@[simp] theorem State.raise_lowestKey (r : Raise) : (s.raise r).lowestKey = s.lowestKey := rfl
@[simp] theorem State.raise_top (r : Raise) : (s.raise r).top = s.top := rfl

end Sys2Proof.Machine
end

