-- ==== Sys2Proof/Laws/Ops.lean ====
section
/-! SUPPORT. One lemma per shared operation: registers, register transfer, call stack, timers, faults. -/

namespace Sys2Proof.Machine

/-! ### Registers -/

@[simp] theorem State.reg_setReg (s : State) (x r : RegIdx) (b : Byte) :
    (s.setReg x b).reg r = if r = x then b else s.reg r := by
  simp only [State.reg, State.setReg, Vector.getElem_set, Fin.ext_iff, eq_comm]

@[simp] theorem State.reg_setFlag (s : State) (c : Bool) (r : RegIdx) :
    (s.setFlag c).reg r = if r = 15 then flagByte c else s.reg r := by
  simp [State.setFlag]

/-- The flag is written first and the result second (42_alu.md R182). -/
@[simp] theorem State.reg_setFlagThenReg (s : State) (c : Bool) (x r : RegIdx) (b : Byte) :
    (s.setFlagThenReg c x b).reg r = if r = x then b else if r = 15 then flagByte c else s.reg r := by
  simp [State.setFlagThenReg]

theorem loadRegs_getElem (m : List Host.Cell) (a n : Nat) (v : Vector Byte 16) (k : Nat) (hk : k < 16) :
    (loadRegs m a n v)[k] = if k < n then memRead m (a + k) else v[k] := by
  induction n with
  | zero => simp [loadRegs]
  | succ n ih =>
    simp only [loadRegs, Vector.getElem_setIfInBounds, ih]
    by_cases h : n = k
    · subst h; simp
    · have : (k < n + 1) = (k < n) := by simp; omega
      simp [h, this]

/-- The register load: V[0..n-1] from MEM[I..], the rest as before (43_index_memory.md R205). -/
theorem State.reg_fillRegs (s : State) (n : Nat) (r : RegIdx) :
    (s.fillRegs n).reg r = if r.val < n then s.byteAt (s.i.toNat + r.val) else s.reg r := by
  simp only [State.reg, State.fillRegs, loadRegs_getElem _ _ _ _ r.val r.isLt, State.byteAt]

theorem State.firstRegs_length (s : State) (n : Nat) (h : n ≤ 16) : (s.firstRegs n).length = n := by
  simp [State.firstRegs, h]

theorem State.firstRegs_getD (s : State) (n k : Nat) (hk : k < n) (hn : n ≤ 16) :
    (s.firstRegs n).getD k 0 = s.reg ⟨k, by omega⟩ := by
  have h : k < 16 := by omega
  simp [State.firstRegs, State.reg, List.getD, hk, h]

/-! ### Call stack -/

theorem State.push_stack_getElem (s : State) (w : Word) (k : Nat) (hk : k < 16) :
    (s.push w).stack[k] = if s.sp.val = k then w else s.stack[k] := by
  simp [Vector.getElem_setIfInBounds]

theorem State.push_sp_val (s : State) (w : Word) (h : s.sp.val ≠ 16) : (s.push w).sp.val = s.sp.val + 1 := by
  have := s.sp.isLt
  simp [Fin.val_add]; omega

theorem State.pop_sp_val (s : State) (h : s.sp.val ≠ 0) : s.pop.sp.val = s.sp.val - 1 := by
  have := s.sp.isLt
  simp [Fin.sub_def]; omega

/-! ### Timers -/

/-- A timer decrements by 1 and saturates at 0 (40_step.md R130). -/
theorem timerDec_toNat (t : Byte) : (timerDec t).toNat = t.toNat - 1 := by
  have := t.isLt
  simp [timerDec, byteOf]; omega

/-! ### Faults -/

theorem State.spanCheck_eq_none (s : State) (k : Nat) : s.spanCheck k = none ↔ s.i.toNat + k ≤ 4095 := by
  simp [State.spanCheck]

theorem State.spanCheck_of_lt (s : State) (k : Nat) (h : 4095 < s.i.toNat + k) :
    s.spanCheck k = some ⟨.memIndexOutOfBounds, s.i.toNat + k⟩ := if_pos h

theorem State.drawCheck_eq_none (s : State) (n : Nat) :
    s.drawCheck n = none ↔ n = 0 ∨ s.i.toNat + n - 1 ≤ 4095 := by
  rw [State.drawCheck]
  split
  · simp_all
  · rw [State.spanCheck_eq_none]; omega

theorem State.drawCheck_of_lt (s : State) (n : Nat) (h0 : 0 < n) (h : 4095 < s.i.toNat + n - 1) :
    s.drawCheck n = some ⟨.memIndexOutOfBounds, s.i.toNat + n - 1⟩ := by
  have e : s.i.toNat + (n - 1) = s.i.toNat + n - 1 := by omega
  rw [State.drawCheck, if_neg (by omega), State.spanCheck_of_lt s _ (by omega), e]

theorem State.pushCheck_eq_none (s : State) : s.pushCheck = none ↔ s.sp.val ≠ 16 := by simp [State.pushCheck]

theorem State.popCheck_eq_none (s : State) : s.popCheck = none ↔ s.sp.val ≠ 0 := by simp [State.popCheck]

theorem State.keyCheck_eq_none (s : State) (x : RegIdx) : s.keyCheck x = none ↔ (s.reg x).toNat ≤ 15 := by
  simp [State.keyCheck]

/-- Everything a guarded effect can do: raise the fault of its check, or have its effect. -/
theorem guarded_cases {check : Option Raise} {s t u : State} (h : guarded check s t = .next u) :
    (∃ r, check = some r ∧ u = s.raise r) ∨ (check = none ∧ u = t) := by
  cases check with
  | none => right; simpa [guarded, eq_comm] using h
  | some r => left; exact ⟨r, rfl, by simpa [guarded, eq_comm] using h⟩

@[simp] theorem guarded_none (s t : State) : guarded none s t = .next t := rfl

@[simp] theorem guarded_some (r : Raise) (s t : State) : guarded (some r) s t = .next (s.raise r) := rfl

theorem Cause.code_ne_zero (c : Cause) : c.code ≠ 0 := by cases c <;> decide

theorem Cause.code_le (c : Cause) : c.code.toNat ≤ 5 := by cases c <;> decide

@[simp] theorem State.raise_halted (s : State) (r : Raise) : (s.raise r).halted = true := by
  simpa [State.halted] using Cause.code_ne_zero r.cause

theorem State.halted_iff (s : State) : s.halted = true ↔ s.fault ≠ 0 := by simp [State.halted]

/-! ### Input latch -/

theorem State.keyDown_eq (s : State) (k : KeyIdx) : s.keyDown k.val = s.key[k.val] := by
  simp [State.keyDown, List.getD]

theorem State.lowestKey_eq_none (s : State) : s.lowestKey = none ↔ ∀ k : KeyIdx, s.key[k.val] = false := by
  simp only [State.lowestKey, List.findIdx?_eq_none_iff, id]
  constructor
  · intro h k
    exact h _ (by simp)
  · intro h b hb
    obtain ⟨n, hn, rfl⟩ := List.getElem_of_mem hb
    have hn' : n < 16 := by simpa using hn
    simpa using h ⟨n, hn'⟩

/-- The lowest pressed key: it is pressed and no lower one is (45_keypad_timers.md R253). -/
theorem State.lowestKey_eq_some (s : State) (n : Nat) :
    s.lowestKey = some n ↔ ∃ h : n < 16, s.key[n] = true ∧ ∀ j (hj : j < n), s.key[j] = false := by
  simp only [State.lowestKey, List.findIdx?_eq_some_iff_getElem, id]
  constructor
  · rintro ⟨h, h1, h2⟩
    have hn : n < 16 := by simpa using h
    refine ⟨hn, by simpa using h1, fun j hj => ?_⟩
    simpa using h2 j hj
  · rintro ⟨h, h1, h2⟩
    exact ⟨by simpa using h, by simpa using h1, fun j hj => by simpa using h2 j hj⟩

end Sys2Proof.Machine
end

