-- ==== Sys2Proof/Laws/PerInstr.lean ====
section
/-! SUPPORT. One lemma per instruction, for the families LAWS.json names. `InOpcodeMap`: the word an instruction encodes to
matches the row of the opcode map (spec 30_encoding.md R95) that bears its mnemonic. -/

namespace Sys2Proof.Laws.InOpcodeMap

/-- The instruction's word fits a row of the map with the instruction's mnemonic. -/
def Statement (i : Instr) : Prop := ∃ r ∈ opcodeMap, r.mnemonic = i.mnemonic ∧ r.fits (encodeWord i) = true

/-- A row of the map whose mask and pattern fit the word. -/
theorem of_row {i : Instr} (r : OpcodeRow) (hr : r ∈ opcodeMap) (hm : r.mnemonic = i.mnemonic)
    (h : (encodeWord i &&& r.mask).toNat = r.pattern.toNat) : Statement i :=
  ⟨r, hr, hm, by simpa [OpcodeRow.fits] using BitVec.eq_of_toNat_eq h⟩

/-- A row of the map that fixes the operation group only. -/
theorem of_group {i : Instr} {op : Nat} (m : String) (p : Word) (hr : ⟨m, 0xF000, p⟩ ∈ opcodeMap) (hm : m = i.mnemonic)
    (ho : opField (encodeWord i) = op) (hp : p.toNat = op * 4096) : Statement i :=
  of_row ⟨m, 0xF000, p⟩ hr hm ((toNat_and_mask_group _).trans (by rw [ho, hp]))

/-- A row of the map that fixes the group and the low nibble. -/
theorem of_nibble {i : Instr} {op n : Nat} (m : String) (p : Word) (hr : ⟨m, 0xF00F, p⟩ ∈ opcodeMap) (hm : m = i.mnemonic)
    (ho : opField (encodeWord i) = op) (hn : (nField (encodeWord i)).val = n) (hp : p.toNat = op * 4096 + n) :
    Statement i :=
  of_row ⟨m, 0xF00F, p⟩ hr hm ((toNat_and_mask_nibble _).trans (by rw [ho, hp, ← hn]; simp [nField]))

/-- A row of the map that fixes the group and the low byte. -/
theorem of_byte {i : Instr} {op n : Nat} (m : String) (p : Word) (hr : ⟨m, 0xF0FF, p⟩ ∈ opcodeMap) (hm : m = i.mnemonic)
    (ho : opField (encodeWord i) = op) (hn : kkField (encodeWord i) = BitVec.ofNat 8 n) (hl : n < 256)
    (hp : p.toNat = op * 4096 + n) : Statement i := by
  refine of_row ⟨m, 0xF0FF, p⟩ hr hm ((toNat_and_mask_byte _).trans ?_)
  have := congrArg BitVec.toNat hn
  rw [kkField, BitVec.toNat_ofNat, BitVec.toNat_ofNat] at this
  rw [ho, hp]; omega

theorem cls : Statement .cls := of_row ⟨"CLS", 0xFFFF, 0x00E0⟩ (by decide) rfl rfl
theorem ret : Statement .ret := of_row ⟨"RET", 0xFFFF, 0x00EE⟩ (by decide) rfl rfl
theorem jp (nnn : Addr12) : Statement (.jp nnn) :=
  of_group "JP_nnn" 0x1000 (by decide) rfl (opField_formatA _ _ (by decide)) rfl
theorem call (nnn : Addr12) : Statement (.call nnn) :=
  of_group "CALL_nnn" 0x2000 (by decide) rfl (opField_formatA _ _ (by decide)) rfl
theorem seImm (x : RegIdx) (kk : Byte) : Statement (.seImm x kk) :=
  of_group "SE_Vx__kk" 0x3000 (by decide) rfl (opField_formatXK _ _ _ (by decide)) rfl
theorem sneImm (x : RegIdx) (kk : Byte) : Statement (.sneImm x kk) :=
  of_group "SNE_Vx__kk" 0x4000 (by decide) rfl (opField_formatXK _ _ _ (by decide)) rfl
theorem seReg (x y : RegIdx) (low : BitVec 4) : Statement (.seReg x y low) :=
  of_group "SE_Vx__Vy" 0x5000 (by decide) rfl (opField_formatXY _ _ _ _ (by decide) low.isLt) rfl
theorem ldImm (x : RegIdx) (kk : Byte) : Statement (.ldImm x kk) :=
  of_group "LD_Vx__kk" 0x6000 (by decide) rfl (opField_formatXK _ _ _ (by decide)) rfl
theorem addImm (x : RegIdx) (kk : Byte) : Statement (.addImm x kk) :=
  of_group "ADD_Vx__kk" 0x7000 (by decide) rfl (opField_formatXK _ _ _ (by decide)) rfl
theorem ldReg (x y : RegIdx) : Statement (.ldReg x y) :=
  of_nibble "LD_Vx__Vy" 0x8000 (by decide) rfl (opField_formatXY _ _ _ _ (by decide) (by decide))
    (nField_formatXY _ _ _ _ (by decide) (by decide)) rfl
theorem orReg (x y : RegIdx) : Statement (.orReg x y) :=
  of_nibble "OR_Vx__Vy" 0x8001 (by decide) rfl (opField_formatXY _ _ _ _ (by decide) (by decide))
    (nField_formatXY _ _ _ _ (by decide) (by decide)) rfl
theorem andReg (x y : RegIdx) : Statement (.andReg x y) :=
  of_nibble "AND_Vx__Vy" 0x8002 (by decide) rfl (opField_formatXY _ _ _ _ (by decide) (by decide))
    (nField_formatXY _ _ _ _ (by decide) (by decide)) rfl
theorem xorReg (x y : RegIdx) : Statement (.xorReg x y) :=
  of_nibble "XOR_Vx__Vy" 0x8003 (by decide) rfl (opField_formatXY _ _ _ _ (by decide) (by decide))
    (nField_formatXY _ _ _ _ (by decide) (by decide)) rfl
theorem addReg (x y : RegIdx) : Statement (.addReg x y) :=
  of_nibble "ADD_Vx__Vy" 0x8004 (by decide) rfl (opField_formatXY _ _ _ _ (by decide) (by decide))
    (nField_formatXY _ _ _ _ (by decide) (by decide)) rfl
theorem sub (x y : RegIdx) : Statement (.sub x y) :=
  of_nibble "SUB_Vx__Vy" 0x8005 (by decide) rfl (opField_formatXY _ _ _ _ (by decide) (by decide))
    (nField_formatXY _ _ _ _ (by decide) (by decide)) rfl
theorem shr (x y : RegIdx) : Statement (.shr x y) :=
  of_nibble "SHR_Vx" 0x8006 (by decide) rfl (opField_formatXY _ _ _ _ (by decide) (by decide))
    (nField_formatXY _ _ _ _ (by decide) (by decide)) rfl
theorem subn (x y : RegIdx) : Statement (.subn x y) :=
  of_nibble "SUBN_Vx__Vy" 0x8007 (by decide) rfl (opField_formatXY _ _ _ _ (by decide) (by decide))
    (nField_formatXY _ _ _ _ (by decide) (by decide)) rfl
theorem shl (x y : RegIdx) : Statement (.shl x y) :=
  of_nibble "SHL_Vx" 0x800E (by decide) rfl (opField_formatXY _ _ _ _ (by decide) (by decide))
    (nField_formatXY _ _ _ _ (by decide) (by decide)) rfl
theorem sneReg (x y : RegIdx) (low : BitVec 4) : Statement (.sneReg x y low) :=
  of_group "SNE_Vx__Vy" 0x9000 (by decide) rfl (opField_formatXY _ _ _ _ (by decide) low.isLt) rfl
theorem ldI (nnn : Addr12) : Statement (.ldI nnn) :=
  of_group "LD_I__nnn" 0xA000 (by decide) rfl (opField_formatA _ _ (by decide)) rfl
theorem jpV0 (nnn : Addr12) : Statement (.jpV0 nnn) :=
  of_group "JP_V0__nnn" 0xB000 (by decide) rfl (opField_formatA _ _ (by decide)) rfl
theorem rnd (x : RegIdx) (kk : Byte) : Statement (.rnd x kk) :=
  of_group "RND_Vx__kk" 0xC000 (by decide) rfl (opField_formatXK _ _ _ (by decide)) rfl
theorem drw (x y : RegIdx) (n : Fin 16) : Statement (.drw x y n) :=
  of_group "DRW_Vx__Vy__n" 0xD000 (by decide) rfl (opField_formatXY _ _ _ _ (by decide) n.isLt) rfl
theorem skp (x : RegIdx) : Statement (.skp x) :=
  of_byte "SKP_Vx" 0xE09E (by decide) rfl (opField_formatXK _ _ _ (by decide))
    (kkField_formatXK _ _ _ (by decide)) (by decide) rfl
theorem sknp (x : RegIdx) : Statement (.sknp x) :=
  of_byte "SKNP_Vx" 0xE0A1 (by decide) rfl (opField_formatXK _ _ _ (by decide))
    (kkField_formatXK _ _ _ (by decide)) (by decide) rfl
theorem ldVxDt (x : RegIdx) : Statement (.ldVxDt x) :=
  of_byte "LD_Vx__DT" 0xF007 (by decide) rfl (opField_formatXK _ _ _ (by decide))
    (kkField_formatXK _ _ _ (by decide)) (by decide) rfl
theorem ldVxK (x : RegIdx) : Statement (.ldVxK x) :=
  of_byte "LD_Vx__K" 0xF00A (by decide) rfl (opField_formatXK _ _ _ (by decide))
    (kkField_formatXK _ _ _ (by decide)) (by decide) rfl
theorem ldDtVx (x : RegIdx) : Statement (.ldDtVx x) :=
  of_byte "LD_DT__Vx" 0xF015 (by decide) rfl (opField_formatXK _ _ _ (by decide))
    (kkField_formatXK _ _ _ (by decide)) (by decide) rfl
theorem ldStVx (x : RegIdx) : Statement (.ldStVx x) :=
  of_byte "LD_ST__Vx" 0xF018 (by decide) rfl (opField_formatXK _ _ _ (by decide))
    (kkField_formatXK _ _ _ (by decide)) (by decide) rfl
theorem addI (x : RegIdx) : Statement (.addI x) :=
  of_byte "ADD_I__Vx" 0xF01E (by decide) rfl (opField_formatXK _ _ _ (by decide))
    (kkField_formatXK _ _ _ (by decide)) (by decide) rfl
theorem ldF (x : RegIdx) : Statement (.ldF x) :=
  of_byte "LD_F__Vx" 0xF029 (by decide) rfl (opField_formatXK _ _ _ (by decide))
    (kkField_formatXK _ _ _ (by decide)) (by decide) rfl
theorem ldB (x : RegIdx) : Statement (.ldB x) :=
  of_byte "LD_B__Vx" 0xF033 (by decide) rfl (opField_formatXK _ _ _ (by decide))
    (kkField_formatXK _ _ _ (by decide)) (by decide) rfl
theorem dump (x : RegIdx) : Statement (.dump x) :=
  of_byte "LD__I___Vx" 0xF055 (by decide) rfl (opField_formatXK _ _ _ (by decide))
    (kkField_formatXK _ _ _ (by decide)) (by decide) rfl
theorem load (x : RegIdx) : Statement (.load x) :=
  of_byte "LD_Vx___I" 0xF065 (by decide) rfl (opField_formatXK _ _ _ (by decide))
    (kkField_formatXK _ _ _ (by decide)) (by decide) rfl

end Sys2Proof.Laws.InOpcodeMap
end

