-- ==== Sys2Proof/Laws/Screen.lean ====
section
/-! SUPPORT. The laws of the framebuffer: a cell after a toggle, and a whole sprite as one exclusive-or (44_display.md R231). -/

namespace Sys2Proof.Machine

@[simp] theorem Screen.cell_blank (k : Nat) : Screen.blank.cell k = false := by
  simp only [Screen.cell, Screen.blank, Vector.toList_replicate, List.getD, List.getElem?_replicate]
  split <;> simp

/-- A toggle inverts its own cell and leaves every other. -/
theorem Screen.cell_toggle (f : Screen) (j k : Nat) (hj : j < 2048) :
    (f.toggle j).cell k = if k = j then !f.cell k else f.cell k := by
  have hr : j / 64 < 32 := by omega
  have hm : k % 64 < 64 := Nat.mod_lt _ (by decide)
  simp only [Screen.cell, Screen.toggle, Vector.toList_setIfInBounds, List.getD, List.getElem?_set]
  by_cases hrow : j / 64 = k / 64
  · have hrk : k / 64 < 32 := by omega
    simp only [hrow, Vector.length_toList, hrk, if_true, Option.getD_some, BitVec.getLsbD_xor, BitVec.getLsbD_twoPow]
    by_cases hkj : k = j
    · subst hkj; simp [hm]
    · have : ¬ j % 64 = k % 64 := by omega
      simp [hkj, this]
  · have hkj : k ≠ j := by rintro rfl; exact hrow rfl
    simp [hrow, hkj]

theorem pixelIndex_lt (px py : Nat) : pixelIndex px py < 2048 := by
  unfold pixelIndex; omega

/-- Toggling a list of cells, each named at most once: the cells named are inverted, and the collision flag says whether one
of them was 1. -/
theorem foldl_togglePixel (l : List Nat) (hl : l.Nodup) (hb : ∀ k ∈ l, k < 2048) (p : Canvas) :
    (∀ k, (l.foldl togglePixel p).1.cell k = if k ∈ l then !p.1.cell k else p.1.cell k) ∧
    ((l.foldl togglePixel p).2 = true ↔ p.2 = true ∨ ∃ k ∈ l, p.1.cell k = true) := by
  induction l generalizing p with
  | nil => simp
  | cons j l ih =>
    rw [List.nodup_cons] at hl
    have hj : j < 2048 := hb j (by simp)
    obtain ⟨ih1, ih2⟩ := ih hl.2 (fun k hk => hb k (by simp [hk])) (togglePixel p j)
    refine ⟨fun k => ?_, ?_⟩
    · rw [List.foldl_cons, ih1]
      simp only [togglePixel, Screen.cell_toggle _ _ _ hj, List.mem_cons]
      by_cases hk : k = j
      · subst hk; simp [hl.1]
      · simp [hk]
    · rw [List.foldl_cons, ih2]
      simp only [togglePixel, Bool.or_eq_true, List.mem_cons, exists_eq_or_imp, or_assoc]
      refine or_congr_right (or_congr_right (exists_congr fun k => and_congr_right fun hk => ?_))
      have : k ≠ j := by rintro rfl; exact hl.1 hk
      rw [Screen.cell_toggle _ _ _ hj, if_neg this]

/-- The cells one sprite byte toggles, column 0 first (R231). -/
def rowCells (a y : Nat) (bits : Byte) : List Nat :=
  ((List.range 8).filter (fun col => bits.getLsbD (7 - col))).map (fun col => pixelIndex (a + col) y)

theorem drawRow_eq (a y : Nat) (bits : Byte) (p : Canvas) : drawRow a y bits p = (rowCells a y bits).foldl togglePixel p := by
  simp only [drawRow, rowCells, List.foldl_map, List.foldl_filter]

/-- The cells a sprite toggles, row 0 first (R231). -/
def spriteCells (m : List Host.Cell) (base a b n : Nat) : List Nat :=
  (List.range n).flatMap (fun row => rowCells a (b + row) (memRead m (base + row)))

theorem drawSprite_eq (m : List Host.Cell) (base a b n : Nat) (p : Canvas) :
    drawSprite m base a b n p = (spriteCells m base a b n).foldl togglePixel p := by
  simp only [drawSprite, spriteCells, List.foldl_flatMap, drawRow_eq]

theorem mem_spriteCells (m : List Host.Cell) (base a b n k : Nat) :
    k ∈ spriteCells m base a b n ↔
      ∃ row col, row < n ∧ col < 8 ∧ (memRead m (base + row)).getLsbD (7 - col) = true ∧
        k = pixelIndex (a + col) (b + row) := by
  simp only [spriteCells, rowCells, List.mem_flatMap, List.mem_range, List.mem_map, List.mem_filter]
  constructor
  · rintro ⟨row, hr, col, ⟨hc, hb⟩, rfl⟩; exact ⟨row, col, hr, hc, hb, rfl⟩
  · rintro ⟨row, col, hr, hc, hb, rfl⟩; exact ⟨row, hr, col, ⟨hc, hb⟩, rfl⟩

theorem pixelIndex_inj (a b row col row' col' : Nat) (hr : row < 32) (hr' : row' < 32) (hc : col < 64) (hc' : col' < 64)
    (h : pixelIndex (a + col) (b + row) = pixelIndex (a + col') (b + row')) : row = row' ∧ col = col' := by
  unfold pixelIndex at h; omega

/-- Within one draw each cell is toggled at most once (R231): a sprite has at most 15 rows of 8 columns. -/
theorem spriteCells_nodup (m : List Host.Cell) (base a b n : Nat) (hn : n ≤ 15) :
    (spriteCells m base a b n).Nodup := by
  rw [spriteCells, List.nodup_flatMap]
  constructor
  · intro row _
    refine List.Nodup.map_on ?_ (List.nodup_range.filter _)
    intro c hc c' hc' h
    simp only [List.mem_filter, List.mem_range] at hc hc'
    exact (pixelIndex_inj a (b + row) 0 c 0 c' (by omega) (by omega) (by omega) (by omega) h).2
  · refine List.Pairwise.imp_of_mem ?_ List.nodup_range
    intro r r' hr hr' hne
    simp only [List.mem_range] at hr hr'
    simp only [Function.onFun, List.disjoint_left, rowCells, List.mem_map, List.mem_filter, List.mem_range]
    rintro k ⟨c, ⟨hc, -⟩, rfl⟩ ⟨c', ⟨hc', -⟩, h⟩
    exact hne (pixelIndex_inj a b r' c' r c (by omega) (by omega) (by omega) (by omega) h).1.symm

/-- Everything a draw does: the cells of the sprite's set bits are inverted and no other changes, and the collision says
whether one of them was 1 (R231). -/
theorem drawSprite_spec (m : List Host.Cell) (base a b n : Nat) (hn : n ≤ 15) (f : Screen) :
    (∀ k, (drawSprite m base a b n (f, false)).1.cell k =
      if k ∈ spriteCells m base a b n then !f.cell k else f.cell k) ∧
    ((drawSprite m base a b n (f, false)).2 = true ↔ ∃ k ∈ spriteCells m base a b n, f.cell k = true) := by
  rw [drawSprite_eq]
  have hb : ∀ k ∈ spriteCells m base a b n, k < 2048 := by
    intro k hk
    obtain ⟨row, col, -, -, -, rfl⟩ := (mem_spriteCells m base a b n k).1 hk
    exact pixelIndex_lt _ _
  simpa using foldl_togglePixel _ (spriteCells_nodup m base a b n hn) hb (f, false)

end Sys2Proof.Machine
end

