-- ==== Sys2Proof/Laws/Step.lean ====
section
/-! SUPPORT. What a step can do, said once (spec 40_step.md R120), and runs of several steps. -/

namespace Sys2Proof.Machine

theorem State.halted_eq_false (s : State) : s.halted = false ↔ s.fault = 0 := by
  rw [← Bool.not_eq_true, State.halted_iff, not_not]

/-- Everything a step can do: nothing while halted; raise the fetch fault; skip an unrecognized word; or execute the
instruction fetched and then tick where `afterExecute` says so. -/
theorem step_cases {s t : State} (h : step s = .next t) :
    (s.fault ≠ 0 ∧ t = s) ∨
    (s.fault = 0 ∧ ∃ r, s.fetchCheck = some r ∧ t = s.raise r) ∨
    (s.fault = 0 ∧ s.fetchCheck = none ∧ decodeWord s.fetchWord = none ∧ t = s.unrecognized.tick) ∨
    (s.fault = 0 ∧ s.fetchCheck = none ∧
      ∃ i u, decodeWord s.fetchWord = some i ∧ exec i s = .next u ∧ t = s.afterExecute i u) := by
  rw [step] at h
  split at h
  · next hh => exact .inl ⟨(State.halted_iff s).1 hh, by cases h; rfl⟩
  · next hh =>
    have hf : s.fault = 0 := (State.halted_eq_false s).1 (by simpa using hh)
    right
    split at h
    · next r hr => exact .inl ⟨hf, r, hr, by cases h; rfl⟩
    · next hr =>
      right
      split at h
      · next hd => exact .inl ⟨hf, hr, hd, by cases h; rfl⟩
      · next i hd =>
        cases he : exec i s with
        | next u => exact .inr ⟨hf, hr, i, u, hd, he, by rw [he] at h; cases h; rfl⟩
        | fault r => cases r
        | refused r => rw [he] at h; cases h

theorem step_halted {s : State} (h : s.fault ≠ 0) : step s = .next s := by
  rw [step, if_pos ((State.halted_iff s).2 h)]

theorem step_fetchFault {s : State} {r : Raise} (h : s.fault = 0) (hr : s.fetchCheck = some r) :
    step s = .next (s.raise r) := by
  simp [step, (State.halted_eq_false s).2 h, hr]

theorem step_unrecognized {s : State} (h : s.fault = 0) (hr : s.fetchCheck = none)
    (hd : decodeWord s.fetchWord = none) : step s = .next s.unrecognized.tick := by
  simp [step, (State.halted_eq_false s).2 h, hr, hd]

theorem step_exec {s u : State} {i : Instr} (h : s.fault = 0) (hr : s.fetchCheck = none)
    (hd : decodeWord s.fetchWord = some i) (he : exec i s = .next u) : step s = .next (s.afterExecute i u) := by
  simp [step, (State.halted_eq_false s).2 h, hr, hd, he, finish]

theorem State.fetchCheck_eq_none (s : State) : s.fetchCheck = none ↔ s.pc.toNat ≤ 4094 := by
  unfold State.fetchCheck
  split
  · simp; omega
  · simp; omega

theorem State.fetchCheck_eq_some (s : State) (r : Raise) :
    s.fetchCheck = some r ↔ 4094 < s.pc.toNat ∧ r = ⟨.fetchOutOfBounds, s.pc.toNat⟩ := by
  unfold State.fetchCheck
  split
  · simp [eq_comm]; intro _; omega
  · simp; omega

/-! ### Runs -/

theorem run_succ_of_next {M : Host.Core} {k : Nat} {s u : M.State} (h : M.step s = .next u) :
    M.run (k + 1) s = M.run k u := by simp [Host.Core.run, h]

theorem run_succ_of_refused {M : Host.Core} {k : Nat} {s : M.State} {r : M.Refusal} (h : M.step s = .refused r) :
    M.run (k + 1) s = .refused r := by simp [Host.Core.run, h]

/-- A run in the sense of the host's interface (Host/Core.lean). -/
theorem reachesIn_iff_run (k : Nat) (s t : State) :
    ReachesIn k s t ↔ Host.Core.run Sys2Proof.core k s = Host.Outcome.next t := by
  induction k generalizing s with
  | zero => exact ⟨fun h => by rw [ReachesIn.eq_1] at h; rw [h]; rfl, fun h => (by injection h with h; exact h.symm)⟩
  | succ k ih =>
    constructor
    · rintro ⟨u, hu, h⟩
      exact (run_succ_of_next (M := Sys2Proof.core) hu).trans ((ih u).1 h)
    · intro h
      cases hu : step s with
      | next u => exact ⟨u, hu, (ih u).2 ((run_succ_of_next (M := Sys2Proof.core) hu).symm.trans h)⟩
      | fault r => cases r
      | refused r => cases (run_succ_of_refused (M := Sys2Proof.core) (k := k) hu).symm.trans h

/-- A property every step keeps holds along every run. -/
theorem reachesIn_keeps {P : State → Prop} (hP : ∀ s t, P s → step s = .next t → P t) :
    ∀ (k : Nat) (s t : State), P s → ReachesIn k s t → P t := by
  intro k
  induction k with
  | zero => intro s t hs h; rw [ReachesIn.eq_1] at h; exact h ▸ hs
  | succ k ih =>
    intro s t hs h
    obtain ⟨u, hu, hr⟩ := h
    exact ih u t (hP s u hs hu) hr

end Sys2Proof.Machine
end

