-- ==== Sys2Proof/Tests/Slice0.lean ====
section
/-! SUPPORT. The model's own tests. Expected results are those of the vectors of 95_test_vectors.md (named V-..), worked out there
by hand from the rules; words are written out from the patterns of 30_encoding.md R95. One step on a small state each. After
them, for every obligation with hypotheses, a state and operands that meet them, at the boundary values of each clause. -/

namespace Sys2Proof.Tests
open Sys2Proof.Machine

/-- The state after one step of the word `w` placed at PC. -/
def runWord (w : Word) (s : State) : State := (s.withWordAtPc w).stepped

/-- The status of one step of the word `w` placed at PC. -/
def statusOf (w : Word) (s : State) : Status := stepStatus (s.withWordAtPc w)

/-- The state a meaning leaves. -/
def stateOf (r : Result) (s : State) : State :=
  match r with
  | .next t => t
  | .fault _ => s
  | .refused _ => s

/-- The reset state with some registers set. -/
def regs (l : List (RegIdx × Byte)) : State := l.foldl (fun s p => s.setReg p.1 p.2) State.reset

/-- `s` with key `k` pressed. -/
def press (k : KeyIdx) (s : State) : State := s.keySet k true

/-! ### Decoding: every constructor, from a word written out from its pattern (R95) -/

theorem test_decode_whole_word : decodeWord 0x00E0 = some .cls ∧ decodeWord 0x00EE = some .ret := by decide
theorem test_decode_addresses :
    decodeWord 0x1ABC = some (.jp 0xABC) ∧ decodeWord 0x2210 = some (.call 0x210) ∧ decodeWord 0xA20E = some (.ldI 0x20E) ∧
    decodeWord 0xBFFF = some (.jpV0 0xFFF) := by decide
theorem test_decode_immediates :
    decodeWord 0x3142 = some (.seImm 1 0x42) ∧ decodeWord 0x4F10 = some (.sneImm 15 0x10) ∧
    decodeWord 0x600A = some (.ldImm 0 0x0A) ∧ decodeWord 0x71FF = some (.addImm 1 0xFF) ∧
    decodeWord 0xC30F = some (.rnd 3 0x0F) := by decide
theorem test_decode_register_skips :
    decodeWord 0x534B = some (.seReg 3 4 0xB) ∧ decodeWord 0x9AC0 = some (.sneReg 10 12 0) := by decide
theorem test_decode_alu :
    decodeWord 0x8120 = some (.ldReg 1 2) ∧ decodeWord 0x8121 = some (.orReg 1 2) ∧ decodeWord 0x8122 = some (.andReg 1 2) ∧
    decodeWord 0x8123 = some (.xorReg 1 2) ∧ decodeWord 0x8124 = some (.addReg 1 2) ∧ decodeWord 0x8125 = some (.sub 1 2) ∧
    decodeWord 0x83A6 = some (.shr 3 10) ∧ decodeWord 0x8127 = some (.subn 1 2) ∧ decodeWord 0x8FBE = some (.shl 15 11) := by
  decide
theorem test_decode_draw : decodeWord 0xD12F = some (.drw 1 2 15) := by decide
theorem test_decode_keys : decodeWord 0xE39E = some (.skp 3) ∧ decodeWord 0xE4A1 = some (.sknp 4) := by decide
theorem test_decode_group_f :
    decodeWord 0xF107 = some (.ldVxDt 1) ∧ decodeWord 0xF30A = some (.ldVxK 3) ∧ decodeWord 0xF015 = some (.ldDtVx 0) ∧
    decodeWord 0xF218 = some (.ldStVx 2) ∧ decodeWord 0xF21E = some (.addI 2) ∧ decodeWord 0xF429 = some (.ldF 4) ∧
    decodeWord 0xF033 = some (.ldB 0) ∧ decodeWord 0xF255 = some (.dump 2) ∧ decodeWord 0xFF65 = some (.load 15) := by decide
/-- Bit 0 of a table number is bit 0 of the word. -/
theorem test_decodeTableWord : decodeTableWord 16 0x8015 = some (.sub 0 1) ∧ decodeTableWord 16 0x8018 = none := by decide
theorem test_decode_bytes_high_first : decode [0x12, 0x34, 0x56] = .ok (.jp 0x234, [0x56]) := by rfl
theorem test_decode_one_byte : decode [0x12] = .error .truncated := by rfl
theorem test_encode_bytes : encode (.call 0x210) = [0x22, 0x10] ∧ encode (.shl 15 11) = [0x8F, 0xBE] := by decide

/-! ### Well-formedness: what it refuses (V-STEP-1 to V-STEP-15) -/

theorem test_wellFormed_accepts : wellFormedWord 0x00EE = true ∧ wellFormedWord 0x9AA5 = true := by decide
theorem test_wellFormed_refuses_group0 :
    wellFormedWord 0x0000 = false ∧ wellFormedWord 0x00E1 = false ∧ wellFormedWord 0x0123 = false := by decide
theorem test_wellFormed_refuses_group8 :
    wellFormedWord 0x8018 = false ∧ wellFormedWord 0x801F = false ∧ wellFormedWord 0x800D = false := by decide
theorem test_wellFormed_refuses_groupE :
    wellFormedWord 0xE09F = false ∧ wellFormedWord 0xE000 = false ∧ wellFormedWord 0xE1A2 = false := by decide
theorem test_wellFormed_refuses_groupF :
    wellFormedWord 0xF000 = false ∧ wellFormedWord 0xF166 = false ∧ wellFormedWord 0xFFFF = false := by decide
theorem test_opcodeMap_rows : opcodeMap.length = 34 ∧ (opcodeMap.map (·.mnemonic)).Nodup := by decide

/-! ### Control transfer -/

/-- V-CF-1 -/
theorem test_ret :
    let t := runWord 0x00EE { State.reset with pc := 0x212, sp := 1, stack := State.reset.stack.set 0 0x0206 }
    t.pc = 0x206 ∧ t.sp = 0 ∧ t.stack[0] = 0x0206 := by decide
/-- V-CF-3 -/
theorem test_ret_underflow :
    let s := { State.reset with dt := 4 }
    let t := runWord 0x00EE s
    statusOf 0x00EE s = .fault ⟨.stackUnderflow, 0x200⟩ ∧ t.fault = 3 ∧ t.pc = 0x200 ∧ t.sp = 0 ∧ t.dt = 4 := by decide
/-- V-CF-4, V-CF-6 -/
theorem test_jp :
    let t := runWord 0x1200 { State.reset with dt := 2, st := 1 }
    (runWord 0x1204 { State.reset with pc := 0x20A }).pc = 0x204 ∧ t.pc = 0x200 ∧ t.dt = 1 ∧ t.st = 0 := by decide
/-- V-CF-7, V-CF-10 -/
theorem test_call :
    let t := runWord 0x2210 { State.reset with pc := 0x204 }
    let u := runWord 0x2ABC { State.reset with pc := 0xFFE }
    t.stack[0] = 0x0206 ∧ t.sp = 1 ∧ t.pc = 0x210 ∧ u.stack[0] = 0x1000 ∧ u.pc = 0xABC := by decide
/-- V-CF-8, V-CF-9 -/
theorem test_call_full :
    let t := runWord 0x2300 { State.reset with sp := 15 }
    let s := { State.reset with sp := 16, st := 7 }
    t.stack[15] = 0x0202 ∧ t.sp = 16 ∧ statusOf 0x2300 s = .fault ⟨.stackOverflow, 0x200⟩ ∧
    (runWord 0x2300 s).fault = 2 ∧ (runWord 0x2300 s).st = 7 := by decide
/-- V-CF-11, V-CF-12, V-CF-26 -/
theorem test_seImm :
    (runWord 0x3100 { State.reset with pc := 0x208 }).pc = 0x20C ∧
    (runWord 0x3100 { regs [(1, 4)] with pc := 0x208 }).pc = 0x20A ∧
    (runWord 0x3000 { State.reset with pc := 0xFFE }).pc = 0x1002 := by decide
/-- V-CF-14, V-CF-15 -/
theorem test_sneImm :
    (runWord 0x4211 { regs [(2, 0x10)] with pc := 0x300 }).pc = 0x304 ∧
    (runWord 0x4210 { regs [(2, 0x10)] with pc := 0x300 }).pc = 0x302 := by decide
/-- V-CF-17, V-CF-18 -/
theorem test_seReg :
    (runWord 0x534B (regs [(3, 7), (4, 7)])).pc = 0x204 ∧ (runWord 0x5340 (regs [(3, 7), (4, 8)])).pc = 0x202 := by decide
/-- V-CF-20, V-CF-21 -/
theorem test_sneReg :
    (runWord 0x9010 (regs [(0, 1), (1, 2)])).pc = 0x204 ∧ (runWord 0x9015 (regs [(0, 2), (1, 2)])).pc = 0x202 := by decide
/-- V-CF-24, V-CF-25 -/
theorem test_jpV0 :
    (runWord 0xBFFF (regs [(0, 0xFF)])).pc = 0x10FE ∧ (runWord 0xB2FE (regs [(2, 0x55)])).pc = 0x2FE := by decide

/-! ### Register load, arithmetic, logic, shift, random -/

/-- V-ALU-2 -/
theorem test_ldImm : let t := runWord 0x6FAB (regs [(15, 0x01)]); t.vf = 0xAB ∧ t.pc = 0x202 := by decide
/-- V-ALU-3, V-ALU-6 -/
theorem test_addImm :
    let t := runWord 0x71FF (regs [(1, 0x01)])
    t.reg 1 = 0x00 ∧ t.vf = 0x00 ∧ t.pc = 0x202 ∧ (runWord 0x7F01 (regs [(15, 0xFF)])).vf = 0x00 := by decide
/-- V-ALU-7 -/
theorem test_ldReg : let t := runWord 0x8120 (regs [(2, 0x5A)]); t.reg 1 = 0x5A ∧ t.reg 2 = 0x5A := by decide
/-- V-ALU-9 -/
theorem test_orReg : let t := runWord 0x8011 (regs [(0, 0xF0), (1, 0x0F), (15, 1)]); t.reg 0 = 0xFF ∧ t.vf = 1 := by decide
/-- V-ALU-10 -/
theorem test_andReg : let t := runWord 0x8012 (regs [(0, 0xF3), (1, 0x3C), (15, 1)]); t.reg 0 = 0x30 ∧ t.vf = 1 := by decide
/-- V-ALU-11 -/
theorem test_xorReg : let t := runWord 0x8013 (regs [(0, 0xFF), (1, 0x0F), (15, 1)]); t.reg 0 = 0xF0 ∧ t.vf = 1 := by decide
/-- V-ALU-14, V-ALU-15 -/
theorem test_addReg :
    let t := runWord 0x8014 (regs [(0, 0xFF), (15, 1)])
    let u := runWord 0x8014 (regs [(0, 0xFF), (1, 1)])
    t.reg 0 = 0xFF ∧ t.vf = 0 ∧ u.reg 0 = 0 ∧ u.vf = 1 := by decide
/-- V-ALU-17, V-ALU-19 -/
theorem test_addReg_flag_operand :
    let t := runWord 0x83F4 (regs [(3, 0x10), (15, 1)])
    t.reg 3 = 0x11 ∧ t.vf = 0 ∧ (runWord 0x8F34 (regs [(15, 0xF0), (3, 0x20)])).vf = 0x10 := by decide
/-- V-ALU-22, V-ALU-23 -/
theorem test_sub :
    let t := runWord 0x8015 (regs [(0, 0x05), (1, 0x0A)])
    let u := runWord 0x8015 (regs [(0, 0x07), (1, 0x07), (15, 1)])
    t.reg 0 = 0xFB ∧ t.vf = 0 ∧ u.reg 0 = 0 ∧ u.vf = 0 := by decide
/-- V-ALU-25, V-ALU-26 -/
theorem test_sub_flag_operand :
    let t := runWord 0x81F5 (regs [(1, 9), (15, 4)])
    (runWord 0x8F15 (regs [(15, 9), (1, 4)])).vf = 5 ∧ t.reg 1 = 5 ∧ t.vf = 1 := by decide
/-- V-ALU-30, V-ALU-31 -/
theorem test_shr :
    let t := runWord 0x83A6 (regs [(3, 0xFE), (10, 0x55)])
    t.reg 3 = 0x7F ∧ t.vf = 0 ∧ t.reg 10 = 0x55 ∧ (runWord 0x8F06 (regs [(15, 7)])).vf = 3 := by decide
/-- V-ALU-33, V-ALU-34 -/
theorem test_subn :
    let t := runWord 0x8017 (regs [(0, 0x03), (1, 0x0A)])
    let u := runWord 0x8017 (regs [(0, 0x0A), (1, 0x03)])
    t.reg 0 = 7 ∧ t.vf = 1 ∧ u.reg 0 = 0xF9 ∧ u.vf = 0 := by decide
/-- V-ALU-37, V-ALU-40 -/
theorem test_shl :
    let t := runWord 0x830E (regs [(3, 0x81)])
    let u := runWord 0x8FBE (regs [(15, 0xC1), (11, 0x11)])
    t.reg 3 = 0x02 ∧ t.vf = 1 ∧ u.vf = 0x82 ∧ u.reg 11 = 0x11 := by decide
/-- V-ALU-41: the drawn byte is free, so the vector's drawn byte is a hypothesis. -/
theorem test_rnd (h : Config.randomByte 0 = 0xB7) :
    (stateOf (exec (.rnd 3 0x0F) (regs [(3, 0xEE)])) State.reset).reg 3 = 0x07 := by
  show (Config.randomByte 0 &&& 0x0F) = 0x07
  rw [h]; decide
/-- V-ALU-42: for every drawn byte. -/
theorem test_rnd_mask_zero : (stateOf (exec (.rnd 3 0x00) (regs [(3, 0xEE)])) State.reset).reg 3 = 0x00 := by
  show (Config.randomByte 0 &&& 0x00) = 0x00
  simp

/-! ### Index register and memory -/

/-- V-IDX-2 -/
theorem test_ldI : let t := runWord 0xAFFF { State.reset with i := 0x1234 }; t.i = 0x0FFF ∧ t.pc = 0x202 := by decide
/-- V-IDX-8, V-IDX-11 -/
theorem test_addI :
    let t := runWord 0xF21E { regs [(15, 1)] with i := 0x0FFF }
    let u := runWord 0xF21E { regs [(2, 2)] with i := 0xFFFF }
    t.i = 0x0FFF ∧ t.vf = 0 ∧ u.i = 1 ∧ u.vf = 1 := by decide
/-- V-IDX-12, V-IDX-9 -/
theorem test_addI_flag_operand :
    let t := runWord 0xFF1E { regs [(15, 0x20)] with i := 0x0100 }
    let u := runWord 0xF21E { regs [(2, 1)] with i := 0x0FFF }
    t.i = 0x0120 ∧ t.vf = 0 ∧ u.i = 0x1000 ∧ u.vf = 1 := by decide
/-- V-IDX-5, V-IDX-7 -/
theorem test_ldF :
    (runWord 0xF429 { regs [(4, 0x0A)] with i := 0x0777 }).i = 0x0032 ∧ (runWord 0xF429 (regs [(4, 0xFF)])).i = 0x04FB := by
  decide
/-- V-IDX-16, V-IDX-18 -/
theorem test_ldB :
    let t := runWord 0xF033 { regs [(0, 0xFF)] with i := 0x0FFD }
    let u := runWord 0xF033 { regs [(0, 0x6B)] with i := 0x0050 }
    t.byteAt 0xFFD = 2 ∧ t.byteAt 0xFFE = 5 ∧ t.byteAt 0xFFF = 5 ∧
    u.byteAt 0x050 = 1 ∧ u.byteAt 0x051 = 0 ∧ u.byteAt 0x052 = 7 := by decide
/-- V-IDX-17, V-IDX-19 -/
theorem test_ldB_past_the_end :
    let s := { regs [(0, 0xFF)] with i := 0x0FFE, dt := 3 }
    let t := runWord 0xF033 s
    statusOf 0xF033 s = .fault ⟨.memIndexOutOfBounds, 4096⟩ ∧ t.fault = 4 ∧ t.byteAt 0xFFE = 0 ∧ t.pc = 0x200 ∧ t.dt = 3 ∧
    statusOf 0xF133 { State.reset with i := 0xFFFF } = .fault ⟨.memIndexOutOfBounds, 65537⟩ := by decide
/-- V-IDX-20 -/
theorem test_dump :
    let t := runWord 0xF255 { regs [(0, 0x11), (1, 0x22), (2, 0x33), (3, 0x44)] with i := 0x400 }
    t.byteAt 0x400 = 0x11 ∧ t.byteAt 0x401 = 0x22 ∧ t.byteAt 0x402 = 0x33 ∧ t.byteAt 0x403 = 0 ∧ t.i = 0x400 := by decide
/-- V-IDX-22 -/
theorem test_dump_past_the_end :
    let s := { regs [(0, 0xAB), (1, 0xCD)] with i := 0x0FFF }
    statusOf 0xF155 s = .fault ⟨.memIndexOutOfBounds, 4096⟩ ∧ (runWord 0xF155 s).byteAt 0xFFF = 0 := by decide
/-- V-IDX-25 -/
theorem test_load :
    let t := runWord 0xF265 ({ regs [(3, 0x77)] with i := 0x300 }.storeBytes 0x300 [2, 3, 4, 5])
    t.reg 0 = 2 ∧ t.reg 1 = 3 ∧ t.reg 2 = 4 ∧ t.reg 3 = 0x77 ∧ t.i = 0x300 := by decide
/-- V-IDX-27 -/
theorem test_load_past_the_end :
    let s := { regs [(0, 1), (1, 2)] with i := 0x0FFF }.storeBytes 0xFFF [0x5A]
    let t := runWord 0xF165 s
    statusOf 0xF165 s = .fault ⟨.memIndexOutOfBounds, 4096⟩ ∧ t.reg 0 = 1 ∧ t.reg 1 = 2 := by decide
/-- The last entry of 20_memory.md R75's table, glyph F. -/
theorem test_font_region : State.reset.byteAt 0x04F = 0 ∧ State.reset.byteAt 0x09B = 0xF0 ∧ State.reset.byteAt 0x09F = 0x80 ∧
    State.reset.byteAt 0x0A0 = 0 := by decide
/-- Writing the reset contents back unlists the cell (log entry 8). -/
theorem test_memory_canonical : memWrite (memWrite [] 0x300 7) 0x300 0 = [] ∧
    memWrite (memWrite [] 0x301 7) 0x300 9 = [(0x300, 9), (0x301, 7)] := by decide

/-! ### Framebuffer -/

/-- V-DRW-1 -/
theorem test_cls :
    let t := runWord 0x00E0 { State.reset with fb := (Screen.blank.toggle 5).toggle 2047 }
    t.fb = Screen.blank ∧ t.dirty = true ∧ t.pc = 0x202 := by decide
/-- V-DRW-3 -/
theorem test_drw_wraps :
    let t := runWord 0xD012 ({ regs [(0, 62), (1, 31)] with i := 0x20E }.storeBytes 0x20E [0xC0, 0x81])
    t.fb = (((Screen.blank.toggle 2046).toggle 2047).toggle 62).toggle 5 ∧ t.vf = 0 ∧ t.dirty = true := by decide
/-- V-DRW-9, V-DRW-13 -/
theorem test_drw :
    let f := (Screen.blank.toggle 0).toggle 1
    let t := runWord 0xD011 ({ State.reset with i := 0x300, fb := f }.storeBytes 0x300 [0xA0])
    let s := { regs [(15, 1)] with i := 0x0FFF, dt := 2 }.storeBytes 0xFFF [0x80]
    let u := runWord 0xD012 s
    t.fb = (Screen.blank.toggle 1).toggle 2 ∧ t.vf = 1 ∧ u.fault = 4 ∧ u.fb = Screen.blank ∧ u.vf = 1 ∧ u.dirty = false ∧
    u.dt = 2 ∧ u.pc = 0x200 := by decide

/-! ### Input latch and timers -/

/-- V-KEY-1, V-KEY-2, V-KEY-8 -/
theorem test_skp :
    let s := { regs [(3, 7)] with pc := 0x202 }
    (runWord 0xE39E (press 7 s)).pc = 0x206 ∧ (runWord 0xE39E s).pc = 0x204 ∧
    statusOf 0xE39E (press 7 (regs [(3, 0x17)])) = .fault ⟨.keyIndexOutOfRange, 23⟩ := by decide
/-- V-KEY-3, V-KEY-4, V-KEY-6 -/
theorem test_sknp :
    let s := { regs [(3, 7)] with pc := 0x202 }
    (runWord 0xE3A1 (press 7 s)).pc = 0x204 ∧ (runWord 0xE3A1 s).pc = 0x206 ∧
    (runWord 0xE3A1 (regs [(3, 0xFF)])).fault = 5 := by decide
/-- V-KEY-9 -/
theorem test_ldVxDt : let t := runWord 0xF107 { State.reset with dt := 2 }; t.reg 1 = 2 ∧ t.dt = 1 ∧ t.pc = 0x202 := by decide
/-- V-KEY-13 -/
theorem test_ldVxK_waits :
    let s := { regs [(3, 0x55)] with dt := 9, st := 4 }
    let t := runWord 0xF30A s
    statusOf 0xF30A s = .keyWait ∧ t.pc = 0x200 ∧ t.dt = 9 ∧ t.st = 4 ∧ t.reg 3 = 0x55 := by decide
/-- V-KEY-14, V-KEY-15 -/
theorem test_ldVxK :
    let t := runWord 0xF30A (press 7 { State.reset with dt := 9 })
    t.reg 3 = 7 ∧ t.pc = 0x202 ∧ t.dt = 8 ∧ (runWord 0xF30A (press 9 (press 3 State.reset))).reg 3 = 3 := by decide
/-- V-KEY-20, V-KEY-21 -/
theorem test_ldDtVx :
    let t := runWord 0xF015 { regs [(0, 0xFF)] with st := 3 }
    (runWord 0xF015 (regs [(0, 1)])).dt = 0 ∧ t.dt = 0xFE ∧ t.st = 2 := by decide
/-- V-KEY-22, V-KEY-23 -/
theorem test_ldStVx :
    let t := runWord 0xF218 { State.reset with st := 9, dt := 2 }
    (runWord 0xF218 (regs [(2, 0x10)])).st = 0x0F ∧ t.st = 0 ∧ t.dt = 1 := by decide

/-! ### The step, the host's transactions and the fixed names -/

/-- V-STEP-5 -/
theorem test_unrecognized :
    let s := { regs [(15, 1)] with dt := 3 }
    let t := runWord 0x8018 s
    statusOf 0x8018 s = .decodeError 0x8018 ∧ t.pc = 0x202 ∧ t.dt = 2 ∧ t.vf = 1 ∧ t.fault = 0 := by decide
/-- V-STEP-16 -/
theorem test_halted :
    let s := { State.reset with fault := 4, dt := 3 }.storeBytes 0x200 [0x60, 0x01]
    stepStatus s = .halted ∧ s.stepped = s := by decide
/-- V-CF-28 -/
theorem test_fetch_past_the_end :
    let s := { State.reset with pc := 0xFFF }
    stepStatus s = .fault ⟨.fetchOutOfBounds, 0xFFF⟩ ∧ s.stepped = { s with fault := 1 } := by decide
/-- V-STEP-18 -/
theorem test_odd_pc :
    let t := ({ State.reset with pc := 0x201 }.storeBytes 0x201 [0x61, 0x07]).stepped
    t.reg 1 = 7 ∧ t.pc = 0x203 := by decide
/-- V-HOST-1, V-HOST-4, V-HOST-5, V-HOST-6 -/
theorem test_load_program :
    State.reset.loadBytes [0x60, 0x0A] 0x200 = some { State.reset with mem := [(0x200, 0x60), (0x201, 0x0A)] } ∧
    State.reset.loadBytes [0xAA] 0xFFF = some { State.reset with mem := [(0xFFF, 0xAA)] } ∧
    State.reset.loadBytes [0xAA, 0xBB] 0xFFF = none ∧ State.reset.loadBytes [] 0x1000 = some State.reset := by decide
/-- V-HOST-7 -/
theorem test_keySet : (State.reset.keySet 7 true).key[7] = true ∧ (State.reset.keySet 7 true).keySet 7 false = State.reset := by
  decide
/-- V-STEP-21 -/
theorem test_reset_after_fault :
    let t := { regs [(2, 9)] with fault := 3 }.doReset
    t = State.reset ∧ stepStatus t = .decodeError 0x0000 := by decide
theorem test_withFetchWord :
    let s := State.reset.withFetchWord 16 0x6F07
    decodeWord s.fetchWord = some (.ldImm 15 7) ∧ s.stepped.vf = 7 := by decide

/-! ### Witnesses: the hypotheses of each obligation can be met -/

theorem witness_EncodeOfDecode : decodeWord 0x9AC7 = some (.sneReg 10 12 7) := by decide
theorem witness_WordIsARowsInstruction :
    let r : OpcodeRow := ⟨"SUB_Vx__Vy", 0xF00F, 0x8005⟩
    r ∈ opcodeMap ∧ (0x8125 : Word) &&& r.mask = r.pattern ∧ decodeWord 0x8125 = some (.sub 1 2) ∧
    (Instr.sub 1 2).mnemonic = r.mnemonic := by decide
theorem witness_OpcodeMapRowsAreDisjoint :
    let r : OpcodeRow := ⟨"LD_F__Vx", 0xF0FF, 0xF029⟩
    r ∈ opcodeMap ∧ r.fits 0xF029 = true ∧ r.fits 0xFF29 = true := by decide

/-- A state at the edges of the invariant: a full stack of the highest return address, the highest PC, the highest code. -/
def edge : State :=
  { State.reset with sp := 16, stack := Vector.replicate 16 4096, pc := 4350, mem := [(4095, 1)], fault := 5 }
theorem witness_EveryStepKeepsTheInvariant_edge : edge.Inv ∧ step edge = .next edge :=
  ⟨⟨by decide, by decide, by decide, by decide⟩, rfl⟩
theorem witness_EveryStepKeepsTheInvariant : State.reset.Inv ∧ step State.reset = .next State.reset.stepped :=
  ⟨⟨by decide, by decide, by decide, by decide⟩, rfl⟩
theorem witness_EveryHostMoveKeepsTheInvariant :
    (∀ s, (Session.booting State.reset).core? = some s → s.Inv) ∧
    Session.move (.booting State.reset) (.load [7] 4095) = some (.booting { State.reset with mem := [(4095, 7)] }, .done) ∧
    Session.move (.booting State.reset) (.load [7, 7] 4095) = some (.loadFailed State.reset, .capacityExceeded) :=
  ⟨fun s h => by cases h; exact witness_EveryStepKeepsTheInvariant.1, by decide, by decide⟩
theorem witness_CanonicalMemories :
    Memory.wf [(0, 3), (4095, 1)] = true ∧ memWrite (memWrite [] 0 3) 4095 1 = memWrite (memWrite [] 4095 1) 0 3 := by decide

/-- Completion, key wait and fault in one step, at the last address a fetch reads. -/
theorem witness_StepRunsTheDecodedInstruction :
    let s (w : Word) := ({ State.reset with pc := 4094 } : State).withWordAtPc w
    (s 0x6001).fault = 0 ∧ (s 0x6001).pc.toNat ≤ 4094 ∧
    decodeWord (wordOf (256 * ((s 0x6001).byteAt 4094).toNat + ((s 0x6001).byteAt 4095).toNat)) = some (.ldImm 0 1) ∧
    waitsForKey (.ldImm 0 1) (s 0x6001) = false ∧ (s 0x6001).stepped.fault = 0 ∧
    decodeWord (s 0xF30A).fetchWord = some (.ldVxK 3) ∧ waitsForKey (.ldVxK 3) (s 0xF30A) = true ∧
    decodeWord (s 0x00EE).fetchWord = some .ret ∧ (s 0x00EE).stepped.fault = 3 := by decide
theorem witness_FetchIsBigEndian :
    let s : State := { State.reset with pc := 4095 }
    let t : State := { State.reset with pc := 4094 }
    s.fault = 0 ∧ 4094 < s.pc.toNat ∧ s.fetchCheck ≠ none ∧ t.fetchCheck = none := by decide
theorem witness_HaltedCore : edge.fault ≠ 0 ∧ ReachesIn 2 edge edge := ⟨by decide, edge, rfl, edge, rfl, rfl⟩
theorem witness_UnrecognizedWord : State.reset.fault = 0 ∧ State.reset.pc.toNat ≤ 4094 ∧
    decodeWord State.reset.fetchWord = none := by decide
/-- One state for each status. -/
theorem witness_StatusTellsWhatTheStepChanged :
    stepStatus edge = .halted ∧ statusOf 0xF30A State.reset = .keyWait ∧
    statusOf 0x00EE State.reset = .fault ⟨.stackUnderflow, 0x200⟩ ∧ statusOf 0xFFFF State.reset = .decodeError 0xFFFF ∧
    statusOf 0x6001 State.reset = .ok := by decide
/-- Each row of the table of faults, just past its bound and just within it. -/
theorem witness_FaultsAreRaisedExactlyAsTabulated :
    stepStatus { State.reset with pc := 4095 } = .fault ⟨.fetchOutOfBounds, 4095⟩ ∧
    statusOf 0x2300 { State.reset with sp := 16 } = .fault ⟨.stackOverflow, 0x200⟩ ∧
    statusOf 0x2300 { State.reset with sp := 15 } = .ok ∧
    statusOf 0x00EE { State.reset with sp := 0 } = .fault ⟨.stackUnderflow, 0x200⟩ ∧
    statusOf 0x00EE { State.reset with sp := 1 } = .ok ∧
    statusOf 0xF033 { State.reset with i := 4094 } = .fault ⟨.memIndexOutOfBounds, 4096⟩ ∧
    statusOf 0xF033 { State.reset with i := 4093 } = .ok ∧
    statusOf 0xFF55 { State.reset with i := 4081 } = .fault ⟨.memIndexOutOfBounds, 4096⟩ ∧
    statusOf 0xFF65 { State.reset with i := 4080 } = .ok ∧
    statusOf 0xD01F { State.reset with i := 4082 } = .fault ⟨.memIndexOutOfBounds, 4096⟩ ∧
    statusOf 0xD01F { State.reset with i := 4081 } = .ok ∧ statusOf 0xD010 { State.reset with i := 65535 } = .ok ∧
    statusOf 0xE39E (regs [(3, 16)]) = .fault ⟨.keyIndexOutOfRange, 16⟩ ∧ statusOf 0xE3A1 (regs [(3, 15)]) = .ok := by decide
theorem witness_TimersTick :
    step edge = .next edge ∧ stepStatus edge = .halted ∧ stepStatus State.reset = .decodeError 0 ∧
    (∃ r, statusOf 0x00EE State.reset = .fault r) ∧ statusOf 0xF30A State.reset = .keyWait ∧
    statusOf 0xF015 State.reset = .ok := ⟨rfl, by decide, by decide, ⟨_, rfl⟩, by decide, by decide⟩
theorem witness_ProgramCounterFollowsTheTable :
    (exec (.jp 0xFFF) State.reset = .next { State.reset with pc := 0xFFF } ∧ State.reset.execStatus (.jp 0xFFF) = .ok) ∧
    exec .ret State.reset = .next { State.reset with fault := 3 } ∧
    State.reset.execStatus .ret = .fault ⟨.stackUnderflow, 0x200⟩ := ⟨⟨rfl, rfl⟩, rfl, rfl⟩
theorem witness_EveryInstructionChangesOnly :
    exec (.load 15) { State.reset with i := 4080 } =
      .next { State.reset with i := 4080, v := loadRegs [] 4080 16 State.reset.v, pc := 0x202 } ∧
    ({ State.reset with i := 4080 } : State).execStatus (.load 15) = .ok := ⟨rfl, by decide⟩
/-- The clauses about cells: the highest bytes two stores reach, a push at the last slot, a pop, a sprite at the last row. -/
theorem witness_EveryInstructionChangesOnly_cells :
    ({ State.reset with i := 4093 } : State).execStatus (.ldB 0) = .ok ∧
    ({ State.reset with i := 4080 } : State).execStatus (.dump 15) = .ok ∧
    ({ State.reset with sp := 15 } : State).execStatus (.call 0x300) = .ok ∧
    ({ State.reset with sp := 1 } : State).execStatus .ret = .ok ∧
    ({ State.reset with i := 4081 } : State).execStatus (.drw 0 1 15) = .ok ∧
    (stateOf (exec (.drw 0 1 0) State.reset) edge).pixel 2047 = State.reset.pixel 2047 := by decide
theorem witness_not_spriteHits (k : Nat) : ¬ spriteHits State.reset 0 0 0 k := by
  rintro ⟨row, col, h, -⟩
  exact absurd h (Nat.not_lt_zero row)
theorem witness_RunsKeepKeys :
    let s : State := { State.reset with fault := 1, dirty := true }
    ReachesIn 1 s s ∧ s.dirty = true ∧ s.fault ≠ 0 := ⟨⟨_, rfl, rfl⟩, by decide, by decide⟩
theorem witness_SoundTimerAndDirtyFlag :
    step State.reset = .next State.reset.stepped ∧ ReachesIn 2 State.reset State.reset.stepped.stepped :=
  ⟨rfl, _, rfl, _, rfl, rfl⟩
/-- A `RET` whose popped slot is the last live one, the slots above it different. -/
theorem witness_StaleStackSlots :
    let s := ({ State.reset with sp := 1, stack := State.reset.stack.set 0 0x300 } : State).withWordAtPc 0x00EE
    let stk := s.stack.set 1 0x999
    (∀ k (_ : k < 16), k < s.sp.val → stk[k] = s.stack[k]) ∧ step s = .next s.stepped ∧ s.stepped.pc = 0x300 :=
  ⟨by decide, rfl, by decide⟩
theorem witness_SelfJump :
    let s := State.reset.withWordAtPc 0x1200
    s.fault = 0 ∧ s.pc.toNat = (0x200 : Addr12).toNat ∧ s.pc.toNat ≤ 4094 ∧ s.dt = 0 ∧ s.st = 0 ∧
    decodeWord s.fetchWord = some (.jp 0x200) ∧ s.stepped = s := by decide
theorem witness_DelayTimerCounts :
    let s : State := { State.reset with dt := 1 }
    (∀ j, j < 2 → ∃ u, ReachesIn j s u ∧ (stepStatus u = .ok ∨ ∃ w, stepStatus u = .decodeError w) ∧
      ∀ x, decodeWord u.fetchWord ≠ some (.ldDtVx x)) ∧
    ReachesIn 2 s s.stepped.stepped ∧ s.stepped.stepped.dt = 0 := by
  refine ⟨fun j hj => ?_, ⟨_, rfl, _, rfl, rfl⟩, by decide⟩
  have h : j = 0 ∨ j = 1 := by omega
  rcases h with rfl | rfl
  · exact ⟨_, rfl, .inr ⟨0, by decide⟩, by decide⟩
  · exact ⟨_, ⟨_, rfl, rfl⟩, .inr ⟨0, by decide⟩, by decide⟩
theorem witness_RetPopsTheReturnAddress :
    let s : State := { State.reset with sp := 16, stack := State.reset.stack.set 15 0xABC }
    s.sp.val ≠ 0 ∧ exec .ret s = .next { s with sp := 15, pc := 0xABC } ∧ State.reset.sp.val = 0 ∧
    exec .ret State.reset = .next { State.reset with fault := 3 } := ⟨by decide, rfl, by decide, rfl⟩
theorem witness_CallPushesTheNextAddress :
    let s : State := { State.reset with sp := 15 }
    let u : State := { State.reset with sp := 16 }
    s.sp.val ≠ 16 ∧ (stateOf (exec (.call 0x300) s) s).sp.val = 16 ∧ (stateOf (exec (.call 0x300) s) s).stack[15] = 0x202 ∧
    u.sp.val = 16 ∧ stateOf (exec (.call 0x300) u) s = { u with fault := 2 } := by decide
theorem witness_CallThenReturn :
    let s := ({ State.reset with pc := 4094, sp := 15 } : State).withWordAtPc 0x2300
    let s := s.storeBytes 0x300 [0x00, 0xEE]
    s.fault = 0 ∧ s.pc.toNat ≤ 4094 ∧ s.sp.val < 16 ∧ decodeWord s.fetchWord = some (.call 0x300) ∧
    decodeWord (wordOfBytes (s.byteAt 0x300) (s.byteAt 0x301)) = some .ret ∧ s.stepped.stepped.pc = 4096 := by decide
/-- The register that is also the flag, and one that is not. -/
theorem witness_FlagWriters :
    (3 : RegIdx) ≠ 15 ∧ (stateOf (exec (.addReg 3 15) (regs [(3, 0xFF), (15, 1)])) State.reset).vf = 1 ∧
    (stateOf (exec (.subn 15 1) (regs [(1, 9), (15, 2)])) State.reset).vf = 7 := by decide
theorem witness_BcdStoresThreeDigits :
    let s : State := { regs [(0, 0xFF)] with i := 4093 }
    let u : State := { regs [(0, 0xFF)] with i := 4094 }
    s.i.toNat + 2 ≤ 4095 ∧ (stateOf (exec (.ldB 0) s) s).byteAt 4095 = 5 ∧ 4095 < u.i.toNat + 2 ∧
    stateOf (exec (.ldB 0) u) u = { u with fault := 4 } := by decide
theorem witness_DumpStoresRegisters :
    let s : State := { regs [(15, 0xAF)] with i := 4080 }
    let u : State := { regs [(15, 0xAF)] with i := 4081 }
    s.i.toNat + (15 : RegIdx).val ≤ 4095 ∧ (stateOf (exec (.dump 15) s) s).byteAt 4095 = 0xAF ∧
    4095 < u.i.toNat + (15 : RegIdx).val ∧ stateOf (exec (.dump 15) u) u = { u with fault := 4 } := by decide
theorem witness_LoadFillsRegisters :
    let s := ({ State.reset with i := 4095 } : State).storeBytes 4095 [0x5A]
    s.i.toNat + (0 : RegIdx).val ≤ 4095 ∧ (stateOf (exec (.load 0) s) s).reg 0 = 0x5A ∧
    4095 < s.i.toNat + (1 : RegIdx).val ∧ stateOf (exec (.load 1) s) s = { s with fault := 4 } := by decide
theorem witness_LoadAfterDump :
    let s : State := { regs [(0, 1), (1, 2)] with i := 4094 }
    let t := stateOf (exec (.dump 1) s) s
    let u : State := { State.reset with mem := t.mem, i := 4094 }
    let w := stateOf (exec (.load 1) u) u
    s.i.toNat + (1 : RegIdx).val ≤ 4095 ∧ exec (.dump 1) s = .next t ∧ u.mem = t.mem ∧ u.i = s.i ∧
    exec (.load 1) u = .next w ∧ w.reg 1 = 2 := ⟨by decide, rfl, rfl, rfl, rfl, by decide⟩
theorem witness_StoreIsSeenByTheNextFetch :
    let s := ({ regs [(0, 0x12), (1, 0x34)] with pc := 4092, i := 4094 } : State).withWordAtPc 0xF155
    s.fault = 0 ∧ s.pc.toNat ≤ 4092 ∧ 1 ≤ (1 : RegIdx).val ∧ s.i = s.pc + 2 ∧ s.i.toNat + (1 : RegIdx).val ≤ 4095 ∧
    decodeWord s.fetchWord = some (.dump 1) ∧ s.stepped.fetchWord = 0x1234 := by decide
/-- V-DRW-14, V-DRW-15, V-DRW-6: the last row at 4095, one row past it, and no row at all. -/
theorem witness_DrawInvertsTheCells :
    let s : State := { State.reset with i := 4081 }
    let u : State := { State.reset with i := 4082 }
    let z : State := { regs [(15, 1)] with i := 65535 }
    s.i.toNat + (15 : Fin 16).val - 1 ≤ 4095 ∧ (stateOf (exec (.drw 0 1 15) s) s).dirty = true ∧
    0 < (15 : Fin 16).val ∧ 4095 < u.i.toNat + (15 : Fin 16).val - 1 ∧
    stateOf (exec (.drw 0 1 15) u) u = { u with fault := 4 } ∧
    (0 : Fin 16).val = 0 ∧ (stateOf (exec (.drw 0 1 0) z) z).vf = 0 := by decide
/-- A cell the sprite hits, wrapped in both directions (V-DRW-3). -/
theorem witness_spriteHits :
    spriteHits (({ State.reset with i := 0x20E } : State).storeBytes 0x20E [0xC0, 0x81]) 62 31 2 5 :=
  ⟨1, 7, by decide, by decide, by decide, by decide⟩
theorem witness_DrawingTwice :
    let s := ({ regs [(0, 62), (1, 31)] with i := 0x20E } : State).storeBytes 0x20E [0xC0, 0x81]
    let t := stateOf (exec (.drw 0 1 2) s) s
    let u := stateOf (exec (.drw 0 1 2) t) t
    (exec (.drw 0 1 2) s = .next t ∧ exec (.drw 0 1 2) t = .next u) ∧
    s.i.toNat + (2 : Fin 16).val - 1 ≤ 4095 ∧ t.reg 0 = s.reg 0 ∧ t.reg 1 = s.reg 1 ∧ t.vf = 0 ∧ u.vf = 1 ∧
    u.fb = Screen.blank := ⟨⟨rfl, rfl⟩, by decide⟩
theorem witness_KeySkips :
    let s := press 15 (regs [(3, 15)])
    let u := regs [(3, 16)]
    (s.reg 3).toNat < 16 ∧ (stateOf (exec (.skp 3) s) s).pc = 0x204 ∧ 15 < (u.reg 3).toNat ∧
    stateOf (exec (.sknp 3) u) u = { u with fault := 5 } := by decide
theorem witness_TimerMoves :
    let s (w : Word) := ({ regs [(2, 1)] with pc := 4094, dt := 0xFF, st := 5 } : State).withWordAtPc w
    (s 0xF207).fault = 0 ∧ (s 0xF207).pc.toNat ≤ 4094 ∧ decodeWord (s 0xF207).fetchWord = some (.ldVxDt 2) ∧
    (s 0xF207).stepped.reg 2 = 0xFF ∧ (s 0xF207).stepped.st = 4 ∧
    decodeWord (s 0xF215).fetchWord = some (.ldDtVx 2) ∧ (s 0xF215).stepped.dt = 0 ∧
    decodeWord (s 0xF218).fetchWord = some (.ldStVx 2) ∧ (s 0xF218).stepped.st = 0 := by decide
theorem witness_KeyWait :
    let s := press 15 State.reset
    let w := State.reset.withWordAtPc 0xF30A
    s.key[15] = true ∧ (∀ j : KeyIdx, j.val < 15 → s.key[j.val] = false) ∧ s.execStatus (.ldVxK 3) = .ok ∧
    (∀ k : KeyIdx, w.key[k.val] = false) ∧ w.fault = 0 ∧ w.pc.toNat ≤ 4094 ∧ decodeWord w.fetchWord = some (.ldVxK 3) ∧
    w.stepped = w ∧ (w.keySet 0 true).stepped.reg 3 = 0 ∧ (w.keySet 0 true).stepped.pc = 0x202 := by decide
theorem witness_LoadCopiesAllBytesOrNone :
    4096 < 4096 + [(0xAA : Byte)].length ∧ State.reset.loadBytes [0xAA] 4096 = none ∧
    4095 + [(0xAA : Byte)].length ≤ 4096 ∧ State.reset.loadBytes [0xAA] 4095 = some { State.reset with mem := [(4095, 0xAA)] } := by
  decide
theorem witness_HostTouchesOnlyKeysAndDirty :
    HostMove.dirtyClear ≠ .step ∧ HostMove.dirtyClear ≠ .reset ∧
    Session.move (.stepping { State.reset with dirty := true }) .dirtyClear = some (.stepping State.reset, .done) ∧
    Session.move (.stepping State.reset) (.fbRead 2047) = some (.stepping State.reset, .bit false) := by decide
theorem witness_LoadedProgram :
    ([] : List Byte).length ≤ 3582 ∧ (List.replicate 3582 (0 : Byte)).length ≤ 3582 := ⟨by decide, by rw [List.length_replicate]⟩

end Sys2Proof.Tests
end

section
/-! SUPPORT. Proofs of the statements about the state (spec 10_state.md): the reset values, the invariant, what an
instruction changes, and the parts of the state that influence nothing else. Before them the facts they share: an execute
phase as a check followed by an effect, and simulation of a step. -/

namespace Sys2Proof.Machine

/-! ### The execute phase: a check, then an effect -/

/-- `LD Vx, K`: the lowest pressed key is stored, and with none pressed nothing is written (45_keypad_timers.md R253). -/
def State.takeKey (s : State) (x : RegIdx) : State :=
  match s.lowestKey with
  | some k => (s.setReg x (byteOf k)).advance
  | none => s

/-- What holds of `s` and of `s` with the key stored and PC past the instruction holds after `LD Vx, K`. -/
theorem State.takeKey_of {P : State → Prop} {s : State} {x : RegIdx} (hwait : P s)
    (hkey : ∀ b, P (s.setReg x b).advance) : P (s.takeKey x) := by
  unfold State.takeKey
  split
  · exact hkey _
  · exact hwait

/-- A change of the state that leaves KEY alone and commutes with storing the key commutes with `LD Vx, K`. -/
theorem State.takeKey_comm (f : State → State) (s : State) (x : RegIdx) (hkey : (f s).lowestKey = s.lowestKey)
    (hstore : ∀ b, ((f s).setReg x b).advance = f (s.setReg x b).advance) :
    (f s).takeKey x = f (s.takeKey x) := by
  unfold State.takeKey
  rw [hkey]
  cases s.lowestKey with
  | some k => exact hstore _
  | none => rfl

/-- What an instruction does once its check has passed (40_step.md R125): `exec_eq_guarded` ties it to `exec`. -/
def State.effect (s : State) : Instr → State
  | .cls => (s.paint Screen.blank).advance
  | .ret => s.pop.setPc s.top
  | .jp nnn => s.setPc (addrOperand nnn)
  | .call nnn => (s.push (s.pc + 2)).setPc (addrOperand nnn)
  | .seImm x kk => s.skipIf (s.reg x == kk)
  | .sneImm x kk => s.skipIf (s.reg x != kk)
  | .seReg x y _ => s.skipIf (s.reg x == s.reg y)
  | .ldImm x kk => (s.setReg x kk).advance
  | .addImm x kk => (s.setReg x (byteOf (s.regNat x + kk.toNat))).advance
  | .ldReg x y => (s.setReg x (s.reg y)).advance
  | .orReg x y => (s.setReg x (s.reg x ||| s.reg y)).advance
  | .andReg x y => (s.setReg x (s.reg x &&& s.reg y)).advance
  | .xorReg x y => (s.setReg x (s.reg x ^^^ s.reg y)).advance
  | .addReg x y =>
    (s.setFlagThenReg (addFlag (s.regNat x) (s.regNat y)) x (byteOf (s.regNat x + s.regNat y))).advance
  | .sub x y =>
    (s.setFlagThenReg (subFlag (s.regNat x) (s.regNat y)) x (subMod (s.regNat x) (s.regNat y))).advance
  | .shr x _ => (s.setFlagThenReg (shrFlag (s.reg x)) x (byteOf (s.regNat x / 2))).advance
  | .subn x y =>
    (s.setFlagThenReg (subFlag (s.regNat y) (s.regNat x)) x (subMod (s.regNat y) (s.regNat x))).advance
  | .shl x _ => (s.setFlagThenReg (shlFlag (s.reg x)) x (byteOf (2 * s.regNat x))).advance
  | .sneReg x y _ => s.skipIf (s.reg x != s.reg y)
  | .ldI nnn => (s.setI (addrOperand nnn)).advance
  | .jpV0 nnn => s.setPc (s.offsetTarget nnn)
  | .rnd x kk => (s.setReg x (s.drawn &&& kk)).nextDraw.advance
  | .drw x y n => ((s.paint (s.sprite x y n).1).setFlag (s.sprite x y n).2).advance
  | .skp x => s.skipIf (s.keyDown (s.regNat x))
  | .sknp x => s.skipIf (!s.keyDown (s.regNat x))
  | .ldVxDt x => (s.setReg x s.dt).advance
  | .ldVxK x => s.takeKey x
  | .ldDtVx x => (s.setDt (s.reg x)).advance
  | .ldStVx x => (s.setSt (s.reg x)).advance
  | .addI x => ((s.setFlag (indexFlag (s.indexSum x))).setI (wordOf (s.indexSum x))).advance
  | .ldF x => (s.setI (wordOf (s.glyphAddr x))).advance
  | .ldB x => (s.storeBytes s.i.toNat (bcdDigits (s.regNat x))).advance
  | .dump x => (s.storeBytes s.i.toNat (s.firstRegs (x.val + 1))).advance
  | .load x => (s.fillRegs (x.val + 1)).advance

/-- Every execute phase is the instruction's one check followed by its effect. -/
theorem exec_eq_guarded (i : Instr) (s : State) : exec i s = guarded (s.check i) s (s.effect i) := by
  cases i with
  | ldVxK x =>
    show execLdVxK x s = .next (s.takeKey x)
    unfold execLdVxK State.takeKey
    cases s.lowestKey <;> rfl
  | _ => rfl

/-- Everything an execute phase can do: raise the fault of its check, or have its effect. -/
theorem exec_cases {i : Instr} {s t : State} (h : exec i s = .next t) :
    (∃ r, s.check i = some r ∧ t = s.raise r) ∨ (s.check i = none ∧ t = s.effect i) :=
  guarded_cases (exec_eq_guarded i s ▸ h)

theorem exec_of_check_some {i : Instr} {s : State} {r : Raise} (h : s.check i = some r) :
    exec i s = .next (s.raise r) := by rw [exec_eq_guarded, h, guarded_some]

theorem exec_of_check_none {i : Instr} {s : State} (h : s.check i = none) : exec i s = .next (s.effect i) := by
  rw [exec_eq_guarded, h, guarded_none]

theorem State.execStatus_ne_fault_iff (s : State) (i : Instr) :
    (∀ r, s.execStatus i ≠ .fault r) ↔ s.check i = none := by
  unfold State.execStatus
  cases s.check i with
  | some r => simp
  | none => by_cases h : waitsForKey i s <;> simp [h]

/-! ### The whole step -/

theorem State.afterExecute_cases (s : State) (i : Instr) (t : State) :
    s.afterExecute i t = t ∨ s.afterExecute i t = t.tick := by
  unfold State.afterExecute
  split
  · exact .inl rfl
  · exact .inr rfl

theorem exec_next (i : Instr) (s : State) : ∃ t, exec i s = .next t := by
  cases h : s.check i with
  | some r => exact ⟨_, exec_of_check_some h⟩
  | none => exact ⟨_, exec_of_check_none h⟩

theorem step_next (s : State) : ∃ t, step s = .next t := by
  by_cases hf : s.fault = 0
  · cases hc : s.fetchCheck with
    | some r => exact ⟨_, step_fetchFault hf hc⟩
    | none =>
      cases hd : decodeWord s.fetchWord with
      | none => exact ⟨_, step_unrecognized hf hc hd⟩
      | some i =>
        obtain ⟨u, hu⟩ := exec_next i s
        exact ⟨_, step_exec hf hc hd hu⟩
  · exact ⟨_, step_halted hf⟩

theorem step_stepped (s : State) : step s = .next s.stepped := by
  obtain ⟨t, ht⟩ := step_next s
  simp [State.stepped, ht]

/-- A property is kept by every step if raising the first fault, passing over an unrecognized word, an effect and the tick
keep it; the fetch, and before an effect the instruction's check, have passed. -/
theorem step_keeps {P : State → Prop} (hraise : ∀ s r, P s → s.fault = 0 → P (s.raise r))
    (hadvance : ∀ s, P s → s.fetchCheck = none → P s.advance) (htick : ∀ s, P s → P s.tick)
    (heffect : ∀ s i, P s → s.fetchCheck = none → s.check i = none → P (s.effect i)) {s t : State}
    (hs : P s) (h : step s = .next t) : P t := by
  obtain ⟨-, rfl⟩ | ⟨hf, r, -, rfl⟩ | ⟨-, hc, -, rfl⟩ | ⟨hf, hc, i, u, -, he, rfl⟩ := step_cases h
  · exact hs
  · exact hraise s r hs hf
  · exact htick _ (hadvance s hs hc)
  · have hu : P u := by
      obtain ⟨r, -, rfl⟩ | ⟨hi, rfl⟩ := exec_cases he
      · exact hraise s r hs hf
      · exact heffect s i hs hc hi
    obtain h | h := s.afterExecute_cases i u <;> rw [h]
    · exact hu
    · exact htick u hu

end Sys2Proof.Machine
end

section
/-! SUPPORT. What an instruction leaves unchanged: one frame lemma per operation on the state, and from them one frame for
every effect. -/

namespace Sys2Proof.Machine

/-! ### One frame lemma per operation -/

section
variable {rs : List RegIdx} {ps : List Part} {s t : State}

theorem ChangesOnly.refl (rs : List RegIdx) (ps : List Part) (s : State) : ChangesOnly rs ps s s :=
  ⟨fun _ _ => rfl, fun _ => rfl, fun _ => ⟨rfl, rfl⟩, fun _ => rfl, fun _ => rfl, fun _ _ => rfl, fun _ => ⟨rfl, rfl⟩,
    fun _ => rfl, rfl, rfl⟩

variable (h : ChangesOnly rs ps s t)
include h

theorem ChangesOnly.setPc (w : Word) : ChangesOnly rs ps s (t.setPc w) := { h with }

theorem ChangesOnly.advance : ChangesOnly rs ps s t.advance := h.setPc _

theorem ChangesOnly.skipIf (c : Bool) : ChangesOnly rs ps s (t.skipIf c) := h.setPc _

theorem ChangesOnly.setReg {x : RegIdx} (hx : x ∈ rs) (b : Byte) : ChangesOnly rs ps s (t.setReg x b) :=
  { h with regs := fun r hr => by rw [State.reg_setReg, if_neg (ne_of_mem_of_not_mem hx hr).symm, h.regs r hr] }

theorem ChangesOnly.setFlag (hx : 15 ∈ rs) (c : Bool) : ChangesOnly rs ps s (t.setFlag c) := h.setReg hx _

theorem ChangesOnly.setFlagThenReg (hf : 15 ∈ rs) (c : Bool) {x : RegIdx} (hx : x ∈ rs) (b : Byte) :
    ChangesOnly rs ps s (t.setFlagThenReg c x b) := (h.setFlag hf c).setReg hx b

theorem ChangesOnly.fillRegs {n : Nat} (hn : ∀ r : RegIdx, r.val < n → r ∈ rs) : ChangesOnly rs ps s (t.fillRegs n) :=
  { h with regs := fun r hr => by rw [State.reg_fillRegs, if_neg (fun e => hr (hn r e)), h.regs r hr] }

theorem ChangesOnly.setI (hp : .index ∈ ps) (w : Word) : ChangesOnly rs ps s (t.setI w) :=
  { h with index := fun hn => absurd hp hn }

theorem ChangesOnly.push (hp : .calls ∈ ps) (w : Word) : ChangesOnly rs ps s (t.push w) :=
  { h with calls := fun hn => absurd hp hn }

theorem ChangesOnly.pop (hp : .calls ∈ ps) : ChangesOnly rs ps s t.pop :=
  { h with calls := fun hn => absurd hp hn }

theorem ChangesOnly.setDt (hp : .delay ∈ ps) (b : Byte) : ChangesOnly rs ps s (t.setDt b) :=
  { h with delay := fun hn => absurd hp hn }

theorem ChangesOnly.setSt (hp : .sound ∈ ps) (b : Byte) : ChangesOnly rs ps s (t.setSt b) :=
  { h with sound := fun hn => absurd hp hn }

theorem ChangesOnly.storeBytes (hp : .memory ∈ ps) (a : Nat) (bs : List Byte) :
    ChangesOnly rs ps s (t.storeBytes a bs) :=
  { h with memory := fun hn => absurd hp hn }

theorem ChangesOnly.paint (hp : .screen ∈ ps) (f : Screen) : ChangesOnly rs ps s (t.paint f) :=
  { h with screen := fun hn => absurd hp hn }

theorem ChangesOnly.nextDraw (hp : .draws ∈ ps) : ChangesOnly rs ps s t.nextDraw :=
  { h with draws := fun hn => absurd hp hn }

end

/-! ### The frame of every effect -/

/-- The registers `LD Vx, [I]` fills are those it may write. -/
theorem mem_writtenRegs_load {x r : RegIdx} (h : r.val < x.val + 1) : r ∈ writtenRegs (.load x) := by
  simp only [writtenRegs, List.mem_filter, List.mem_finRange, decide_eq_true_eq, true_and]; omega

theorem State.effect_changesOnly (s : State) (i : Instr) :
    ChangesOnly (writtenRegs i) (writtenParts i) s (s.effect i) := by
  have h := ChangesOnly.refl (writtenRegs i) (writtenParts i) s
  cases i with
  | cls => exact (h.paint (.head _) _).advance
  | ret => exact (h.pop (.head _)).setPc _
  | call nnn => exact (h.push (.head _) _).setPc _
  | jp nnn => exact h.setPc _
  | jpV0 nnn => exact h.setPc _
  | seImm x kk => exact h.skipIf _
  | sneImm x kk => exact h.skipIf _
  | seReg x y low => exact h.skipIf _
  | sneReg x y low => exact h.skipIf _
  | skp x => exact h.skipIf _
  | sknp x => exact h.skipIf _
  | addReg x y => exact (h.setFlagThenReg (.tail _ (.head _)) _ (.head _) _).advance
  | sub x y => exact (h.setFlagThenReg (.tail _ (.head _)) _ (.head _) _).advance
  | shr x y => exact (h.setFlagThenReg (.tail _ (.head _)) _ (.head _) _).advance
  | subn x y => exact (h.setFlagThenReg (.tail _ (.head _)) _ (.head _) _).advance
  | shl x y => exact (h.setFlagThenReg (.tail _ (.head _)) _ (.head _) _).advance
  | rnd x kk => exact ((h.setReg (.head _) _).nextDraw (.head _)).advance
  | drw x y n => exact ((h.paint (.head _) _).setFlag (.head _) _).advance
  | ldVxK x => exact State.takeKey_of h fun b => (h.setReg (.head _) b).advance
  | ldDtVx x => exact (h.setDt (.head _) _).advance
  | ldStVx x => exact (h.setSt (.head _) _).advance
  | ldI nnn => exact (h.setI (.head _) _).advance
  | addI x => exact ((h.setFlag (.head _) _).setI (.head _) _).advance
  | ldF x => exact (h.setI (.head _) _).advance
  | ldB x => exact (h.storeBytes (.head _) _ _).advance
  | dump x => exact (h.storeBytes (.head _) _ _).advance
  | load x => exact (h.fillRegs fun _ => mem_writtenRegs_load).advance
  | _ => exact (h.setReg (.head _) _).advance

/-! ### The cells a store, a push and a draw leave alone -/

theorem State.storeBytes_byteAt_outside (s : State) (p : Nat) (bs : List Byte) {a : Nat}
    (h : a < p ∨ p + bs.length ≤ a) : (s.storeBytes p bs).byteAt a = s.byteAt a :=
  (memRead_memWriteBytes s.mem p bs a).trans (if_neg (by omega))

theorem State.effect_ldB_byteAt (s : State) (x : RegIdx) {a : Nat} (h : a < s.i.toNat ∨ s.i.toNat + 2 < a) :
    (s.effect (.ldB x)).byteAt a = s.byteAt a :=
  s.storeBytes_byteAt_outside s.i.toNat (bcdDigits (s.regNat x)) h

theorem State.effect_dump_byteAt (s : State) (x : RegIdx) {a : Nat} (h : a < s.i.toNat ∨ s.i.toNat + x.val < a) :
    (s.effect (.dump x)).byteAt a = s.byteAt a :=
  s.storeBytes_byteAt_outside s.i.toNat (s.firstRegs (x.val + 1)) (by
    rw [State.firstRegs_length _ _ (by omega)]; omega)

theorem State.effect_call_stack (s : State) (nnn : Addr12) {k : Nat} (hk : k < 16) (hne : k ≠ s.sp.val) :
    (s.effect (.call nnn)).stack[k] = s.stack[k] :=
  (s.push_stack_getElem (s.pc + 2) k hk).trans (if_neg hne.symm)

theorem State.mem_spriteCells_iff (s : State) (a b n k : Nat) :
    k ∈ spriteCells s.mem s.i.toNat a b n ↔ spriteHits s a b n k := mem_spriteCells s.mem s.i.toNat a b n k

theorem State.effect_drw_pixel (s : State) (x y : RegIdx) (n : Fin 16) {k : Nat}
    (h : ¬ spriteHits s (s.regNat x) (s.regNat y) n.val k) : (s.effect (.drw x y n)).pixel k = s.pixel k := by
  have hcell := (drawSprite_spec s.mem s.i.toNat (s.regNat x) (s.regNat y) n.val (by omega) s.fb).1 k
  exact hcell.trans (if_neg (mt (s.mem_spriteCells_iff _ _ _ k).1 h))

/-! ### What no step undoes -/

theorem State.effect_dirty (s : State) (i : Instr) (h : s.dirty = true) : (s.effect i).dirty = true := by
  by_cases hp : Part.screen ∈ writtenParts i
  · cases i with
    | cls => rfl
    | drw x y n => rfl
    | _ => simp [writtenParts] at hp
  · rw [((s.effect_changesOnly i).screen hp).2, h]

/-- What a run that starts in `s` has kept when it stands at `t`: KEY, a set DIRTY and a nonzero FAULT. -/
def KeepsLatches (s t : State) : Prop :=
  t.key = s.key ∧ (s.dirty = true → t.dirty = true) ∧ (s.fault ≠ 0 → t.fault = s.fault)

theorem KeepsLatches.refl (s : State) : KeepsLatches s s := ⟨rfl, id, fun _ => rfl⟩

theorem KeepsLatches.step {s t u : State} (h : KeepsLatches s t) (hstep : step t = .next u) : KeepsLatches s u := by
  refine step_keeps (P := KeepsLatches s) ?raise (fun t ht _ => ht) (fun t ht => ht) ?effect h hstep
  case raise =>
    rintro t r ⟨hkey, hdirty, hfault⟩ h0
    exact ⟨hkey, hdirty, fun hs => absurd ((hfault hs).symm.trans h0) hs⟩
  case effect =>
    rintro t i ⟨hkey, hdirty, hfault⟩ - -
    have hc := t.effect_changesOnly i
    exact ⟨hc.key.trans hkey, fun hs => t.effect_dirty i (hdirty hs), fun hs => hc.fault.trans (hfault hs)⟩

end Sys2Proof.Machine

namespace Sys2Proof.Proofs
open Sys2Proof.Machine

/-- Settles O21: an instruction that does not fault has its effect, whose operations each write one part. -/
theorem everyInstructionChangesOnlyWhatItsRuleNames : Obligations.EveryInstructionChangesOnlyWhatItsRuleNames := by
  intro i s t hexec hstatus
  have hcheck := (s.execStatus_ne_fault_iff i).1 hstatus
  rw [exec_of_check_none hcheck] at hexec
  cases hexec
  refine ⟨s.effect_changesOnly i, ?_, ?_, ?_, ?_, ?_⟩
  · rintro x rfl a ha
    exact s.effect_ldB_byteAt x ha
  · rintro x rfl a ha
    exact s.effect_dump_byteAt x ha
  · rintro nnn rfl k hk hne
    exact s.effect_call_stack nnn hk hne
  · rintro rfl
    rfl
  · rintro x y n rfl k - hmiss
    exact s.effect_drw_pixel x y n hmiss

/-- Settles O22: each step keeps KEY, a set DIRTY and a nonzero FAULT, so every run does. -/
theorem runsKeepKeysAndNeverClearDirtyOrFault : Obligations.RunsKeepKeysAndNeverClearDirtyOrFault :=
  fun k s t h => reachesIn_keeps (P := KeepsLatches s) (fun _ _ hu hstep => hu.step hstep) k s t (.refl s) h

end Sys2Proof.Proofs
end

section
/-! SUPPORT. The reset values, and the invariant of the core at reset, over a step and over a move of the host. -/

namespace Sys2Proof.Machine

/-! ### Canonical memories -/

/-- In a memory with rising addresses a read answers the listed cell. -/
theorem memRead_of_mem {m : List Host.Cell} (h : m.Pairwise (fun c d => c.1 < d.1)) {a : Nat} {b : Byte}
    (hm : (a, b) ∈ m) : memRead m a = b := by
  induction m with
  | nil => cases hm
  | cons e m ih =>
    obtain ⟨p, d⟩ := e
    rw [List.pairwise_cons] at h
    rcases List.mem_cons.1 hm with he | hm
    · cases he; simp [memRead]
    · have hlt : p < a := h.1 (a, b) hm
      rw [memRead, if_neg (by omega), ih h.2 hm]

/-- A read that does not answer the reset contents answers a listed cell. -/
theorem mem_of_memRead_ne {m : List Host.Cell} {a : Nat} (h : memRead m a ≠ resetByte a) : (a, memRead m a) ∈ m := by
  induction m with
  | nil => exact absurd rfl h
  | cons e m ih =>
    obtain ⟨p, d⟩ := e
    by_cases hp : a = p
    · simp [memRead, hp]
    · rw [memRead, if_neg hp] at h ⊢
      exact List.mem_cons_of_mem _ (ih h)

/-- The cells a canonical memory lists are those that read as something else than the reset contents. -/
theorem Memory.mem_iff {m : List Host.Cell} (h : Memory.wf m = true) (a : Nat) (b : Byte) :
    (a, b) ∈ m ↔ a ≤ 4095 ∧ memRead m a = b ∧ b ≠ resetByte a := by
  obtain ⟨hsorted, hcells⟩ := (Memory.wf_iff m).1 h
  constructor
  · intro hm
    obtain ⟨ha, hb⟩ := hcells _ hm
    exact ⟨ha, memRead_of_mem hsorted hm, hb⟩
  · rintro ⟨-, rfl, hb⟩
    exact mem_of_memRead_ne hb

/-- Two lists of cells with rising addresses that list the same cells are equal. -/
theorem eq_of_rising_of_mem_iff {m m' : List Host.Cell} (h : m.Pairwise (fun c d => c.1 < d.1))
    (h' : m'.Pairwise (fun c d => c.1 < d.1)) (hmem : ∀ c, c ∈ m ↔ c ∈ m') : m = m' := by
  have : Std.Antisymm (fun c d : Host.Cell => c.1 < d.1) := ⟨fun _ _ hcd hdc => absurd hcd (lt_asymm hdc)⟩
  have : Std.Irrefl (fun c d : Host.Cell => c.1 < d.1) := ⟨fun c => lt_irrefl c.1⟩
  exact h.eq_of_mem_iff h' hmem

/-! ### Fault, tick and the host's writes keep the invariant -/

theorem State.Inv.raise {s : State} (h : s.Inv) (r : Raise) : (s.raise r).Inv :=
  ⟨h.mem, h.pc, h.live, Cause.code_le r.cause⟩

theorem State.Inv.tick {s : State} (h : s.Inv) : s.tick.Inv := ⟨h.mem, h.pc, h.live, h.fault⟩

theorem State.Inv.keySet {s : State} (h : s.Inv) (k : KeyIdx) (v : Bool) : (s.keySet k v).Inv :=
  ⟨h.mem, h.pc, h.live, h.fault⟩

theorem State.Inv.dirtyClear {s : State} (h : s.Inv) : s.dirtyClear.Inv := ⟨h.mem, h.pc, h.live, h.fault⟩

theorem State.inv_reset : State.reset.Inv where
  mem := rfl
  pc := by decide
  live _ _ hk := absurd hk (Nat.not_lt_zero _)
  fault := by decide

/-- A later reset meets it too: only the count of drawn bytes differs. -/
theorem State.inv_doReset (s : State) : s.doReset.Inv :=
  ⟨State.inv_reset.mem, State.inv_reset.pc, State.inv_reset.live, State.inv_reset.fault⟩

theorem State.Inv.loadBytes {s t : State} (h : s.Inv) {bytes : List Byte} {addr : Nat}
    (hl : s.loadBytes bytes addr = some t) : t.Inv := by
  unfold State.loadBytes at hl
  split at hl
  · cases hl
  · cases hl
    exact ⟨Memory.wf_memWriteBytes _ _ _ h.mem (by omega), h.pc, h.live, h.fault⟩

/-! ### PC never wraps (10_state.md R23) -/

theorem State.advance_pc_le {s : State} (h : s.pc.toNat ≤ 4094) : s.advance.pc.toNat ≤ 4350 := by
  rw [State.advance_pc]; bv_omega

theorem State.skipIf_pc_le {s : State} (h : s.pc.toNat ≤ 4094) (c : Bool) : (s.skipIf c).pc.toNat ≤ 4350 := by
  rw [State.skipIf_pc]
  split
  · bv_omega
  · exact State.advance_pc_le h

theorem addrOperand_toNat (nnn : Addr12) : (addrOperand nnn).toNat = nnn.toNat := by
  have := nnn.isLt
  simp only [addrOperand, BitVec.truncate_eq_setWidth, BitVec.toNat_setWidth]; omega

theorem addrOperand_le (nnn : Addr12) : (addrOperand nnn).toNat ≤ 4350 := by
  have := nnn.isLt
  rw [addrOperand_toNat]; omega

theorem State.offsetTarget_le (s : State) (nnn : Addr12) : (s.offsetTarget nnn).toNat ≤ 4350 := by
  have := nnn.isLt
  have : s.v0 < 256 := (s.reg 0).isLt
  simp only [State.offsetTarget, BitVec.toNat_ofNat]; omega

theorem State.Inv.top_le {s : State} (h : s.Inv) (hsp : s.sp.val ≠ 0) : s.top.toNat ≤ 4096 :=
  h.live (s.sp.val - 1) (by omega) (by omega)

theorem State.Inv.effect_pc_le {s : State} (h : s.Inv) (hpc : s.pc.toNat ≤ 4094) {i : Instr} (hi : s.check i = none) :
    (s.effect i).pc.toNat ≤ 4350 := by
  cases i with
  | ret => exact (h.top_le ((State.popCheck_eq_none s).1 hi)).trans (by decide)
  | jp nnn => exact addrOperand_le nnn
  | call nnn => exact addrOperand_le nnn
  | jpV0 nnn => exact s.offsetTarget_le nnn
  | seImm x kk => exact State.skipIf_pc_le hpc _
  | sneImm x kk => exact State.skipIf_pc_le hpc _
  | seReg x y low => exact State.skipIf_pc_le hpc _
  | sneReg x y low => exact State.skipIf_pc_le hpc _
  | skp x => exact State.skipIf_pc_le hpc _
  | sknp x => exact State.skipIf_pc_le hpc _
  | ldVxK x =>
    exact State.takeKey_of (P := fun t => t.pc.toNat ≤ 4350) h.pc fun b =>
      State.advance_pc_le (s := s.setReg x b) hpc
  | _ => exact State.advance_pc_le hpc

/-! ### The other clauses -/

theorem State.effect_mem_wf {s : State} (h : Memory.wf s.mem = true) {i : Instr} (hi : s.check i = none) :
    Memory.wf (s.effect i).mem = true := by
  cases i with
  | ldB x =>
    have hb := (State.spanCheck_eq_none s 2).1 hi
    exact Memory.wf_memWriteBytes _ _ _ h (by simp only [bcdDigits, List.length_cons, List.length_nil]; omega)
  | dump x =>
    have hb := (State.spanCheck_eq_none s x.val).1 hi
    exact Memory.wf_memWriteBytes _ _ _ h (by rw [State.firstRegs_length _ _ (by omega)]; omega)
  | ldVxK x => exact State.takeKey_of (P := fun t => Memory.wf t.mem = true) h fun _ => h
  | _ => exact h

/-- `CALL` pushes an address past a fetchable PC; `RET` leaves fewer live entries; nothing else touches the call stack. -/
theorem State.Inv.effect_live {s : State} (h : s.Inv) (hpc : s.pc.toNat ≤ 4094) {i : Instr} (hi : s.check i = none) :
    ∀ k (_ : k < 16), k < (s.effect i).sp.val → (s.effect i).stack[k].toNat ≤ 4096 := by
  cases i with
  | ret =>
    intro k hk hlive
    have hsp : s.pop.sp.val = s.sp.val - 1 := State.pop_sp_val s ((State.popCheck_eq_none s).1 hi)
    have hlt : k < s.pop.sp.val := hlive
    exact h.live k hk (by omega)
  | call nnn =>
    intro k hk hlive
    have hsp : (s.push (s.pc + 2)).sp.val = s.sp.val + 1 :=
      State.push_sp_val s _ ((State.pushCheck_eq_none s).1 hi)
    have hlt : k < (s.push (s.pc + 2)).sp.val := hlive
    show (s.push (s.pc + 2)).stack[k].toNat ≤ 4096
    rw [State.push_stack_getElem]
    split
    · bv_omega
    · exact h.live k hk (by omega)
  | ldVxK x =>
    obtain ⟨hsp, hstack⟩ := (s.effect_changesOnly (.ldVxK x)).calls (by simp [writtenParts])
    rw [hsp, hstack]
    exact h.live
  | _ => exact h.live

theorem State.Inv.effect {s : State} (h : s.Inv) (hc : s.fetchCheck = none) {i : Instr} (hi : s.check i = none) :
    (s.effect i).Inv := by
  have hpc := (State.fetchCheck_eq_none s).1 hc
  exact ⟨State.effect_mem_wf h.mem hi, h.effect_pc_le hpc hi, h.effect_live hpc hi,
    (s.effect_changesOnly i).fault ▸ h.fault⟩

theorem State.Inv.step {s t : State} (h : s.Inv) (hstep : step s = .next t) : t.Inv := by
  refine step_keeps (P := State.Inv) (fun s r hs _ => hs.raise r) (fun s hs hc => ?_) (fun s hs => hs.tick)
    (fun s i hs hc hi => hs.effect hc hi) h hstep
  exact ⟨hs.mem, State.advance_pc_le ((State.fetchCheck_eq_none s).1 hc), hs.live, hs.fault⟩

/-! ### The host's moves -/

/-- What one move of the host can make of a core. -/
inductive CoreMove (s : State) : State → Prop where
  | same : CoreMove s s
  | reset : CoreMove s s.doReset
  | load {t : State} (bytes : List Byte) (addr : Nat) : s.loadBytes bytes addr = some t → CoreMove s t
  | step : CoreMove s s.stepped
  | keySet (k : KeyIdx) (v : Bool) : CoreMove s (s.keySet k v)
  | dirtyClear : CoreMove s s.dirtyClear

theorem anytimeMove_core {s t : State} {wrap : State → Session} {m : HostMove} {e : Session} {r : Reply}
    (hw : ∀ u, (wrap u).core? = some u) (h : anytimeMove s wrap m = some (e, r)) (ht : e.core? = some t) :
    CoreMove s t := by
  cases m with
  | load bytes addr => cases h
  | step => cases h
  | reset => cases h; cases ht; exact .reset
  | keySet k v => cases h; rw [hw] at ht; cases ht; exact .keySet k v
  | fbRead k => cases h; rw [hw] at ht; cases ht; exact .same
  | dirtyQuery => cases h; rw [hw] at ht; cases ht; exact .same
  | dirtyClear => cases h; rw [hw] at ht; cases ht; exact .dirtyClear
  | observe => cases h; rw [hw] at ht; cases ht; exact .same

/-- Everything a move of a session can do to its core: the first reset makes one, every other move changes the one there is. -/
theorem Session.move_core {e e' : Session} {m : HostMove} {r : Reply} {t : State} (h : e.move m = some (e', r))
    (ht : e'.core? = some t) : t = State.reset ∨ ∃ s, e.core? = some s ∧ CoreMove s t := by
  cases e with
  | unreset =>
    cases m with
    | reset => cases h; cases ht; exact .inl rfl
    | _ => cases h
  | booting s =>
    refine .inr ⟨s, rfl, ?_⟩
    cases m with
    | load bytes addr =>
      simp only [Session.move] at h
      split at h
      · next u hu => cases h; cases ht; exact .load bytes addr hu
      · cases h; cases ht; exact .same
    | step => cases h; cases ht; exact .step
    | _ =>
      simp only [Session.move] at h
      exact anytimeMove_core (fun _ => rfl) h ht
  | loadFailed s => exact .inr ⟨s, rfl, anytimeMove_core (fun _ => rfl) h ht⟩
  | stepping s =>
    refine .inr ⟨s, rfl, ?_⟩
    cases m with
    | step => cases h; cases ht; exact .step
    | _ =>
      simp only [Session.move] at h
      exact anytimeMove_core (fun _ => rfl) h ht

theorem CoreMove.inv {s t : State} (hm : CoreMove s t) (h : s.Inv) : t.Inv := by
  cases hm with
  | same => exact h
  | reset => exact s.inv_doReset
  | load bytes addr hl => exact h.loadBytes hl
  | step => exact h.step (step_stepped s)
  | keySet k v => exact h.keySet k v
  | dirtyClear => exact h.dirtyClear

/-! ### Memory after reset -/

theorem State.reset_byteAt (a : Nat) : State.reset.byteAt a = resetByte a := rfl

theorem resetByte_font {k : Nat} (h : k ≤ 79) : resetByte (0x050 + k) = Config.fontByte k := by
  rw [resetByte, if_pos (by omega), Nat.add_sub_cancel_left]

theorem resetByte_outside_font {a : Nat} (h : a ≤ 0x04F ∨ 0x0A0 ≤ a) : resetByte a = 0 := by
  rw [resetByte, if_neg (by omega)]

end Sys2Proof.Machine

namespace Sys2Proof.Proofs
open Sys2Proof.Machine

/-- Settles O9: each clause of the invariant is kept by an effect whose check has passed, by a fault and by the tick. -/
theorem everyStepKeepsTheInvariant : Obligations.EveryStepKeepsTheInvariant :=
  fun _ _ h hstep => h.step hstep

/-- Settles O10: the first reset makes a core that meets the invariant, and every other move keeps it. -/
theorem everyHostMoveKeepsTheInvariant : Obligations.EveryHostMoveKeepsTheInvariant := by
  intro e e' m r hinv hmove t ht
  obtain rfl | ⟨s, hs, hm⟩ := Session.move_core hmove ht
  · exact State.inv_reset
  · exact hm.inv (hinv s hs)

/-- Settles O11: a canonical memory lists exactly the cells that read as something else than the reset contents, in rising
addresses. -/
theorem canonicalMemoriesThatReadAlikeAreEqual : Obligations.CanonicalMemoriesThatReadAlikeAreEqual := by
  intro m m' h h' hread
  refine eq_of_rising_of_mem_iff ((Memory.wf_iff m).1 h).1 ((Memory.wf_iff m').1 h').1 fun ⟨a, b⟩ => ?_
  rw [Memory.mem_iff h, Memory.mem_iff h']
  exact and_congr_right fun ha => by rw [hread a ha]

/-- Settles O7: memory after reset lists nothing, so it reads as the font table and zeros; the other values stand in
`State.reset`. -/
theorem resetLeavesTheSpecifiedValues : Obligations.ResetLeavesTheSpecifiedValues := by
  refine ⟨fun r => ?_, rfl, rfl, rfl, fun k hk => ?_, rfl, rfl, fun a ha => ?_, fun k hk => ?_, fun a ha _ => ?_,
    fun k _ => Screen.cell_blank k, rfl, fun k hk => ?_, rfl⟩
  · simp [State.reg, State.reset]
  · simp [State.reset]
  · exact (State.reset_byteAt a).trans (resetByte_outside_font (.inl ha))
  · exact (State.reset_byteAt _).trans (resetByte_font hk)
  · exact (State.reset_byteAt a).trans (resetByte_outside_font (.inr ha))
  · simp [State.reset]

/-- Settles O8: memory lists nothing, no stack entry is live, and PC and FAULT are given values. -/
theorem resetMeetsTheInvariant : Obligations.ResetMeetsTheInvariant := State.inv_reset

end Sys2Proof.Proofs
end

section
/-! SUPPORT. What influences nothing else: ST and DIRTY, and the call-stack slots at and above SP. Each is a relation between
two states that every step keeps. -/

namespace Sys2Proof.Machine

/-! ### Relations that a step keeps -/

/-- A relation between two states that a step can follow: the parts that decide which instruction runs and whether it waits
are equal, and the checks, a fault, the passing over of a word, an effect and the tick keep it. -/
structure StepRelation (R : State → State → Prop) : Prop where
  fault : ∀ {s s'}, R s s' → s'.fault = s.fault
  pc : ∀ {s s'}, R s s' → s'.pc = s.pc
  mem : ∀ {s s'}, R s s' → s'.mem = s.mem
  key : ∀ {s s'}, R s s' → s'.key = s.key
  check : ∀ {s s'}, R s s' → ∀ i, s'.check i = s.check i
  raise : ∀ {s s'}, R s s' → ∀ r, R (s.raise r) (s'.raise r)
  advance : ∀ {s s'}, R s s' → R s.advance s'.advance
  effect : ∀ {s s'}, R s s' → ∀ i, s.check i = none → R (s.effect i) (s'.effect i)
  tick : ∀ {s s'}, R s s' → R s.tick s'.tick

section
variable {R : State → State → Prop} (hR : StepRelation R)
include hR

theorem StepRelation.fetchCheck {s s' : State} (h : R s s') : s'.fetchCheck = s.fetchCheck := by
  simp only [State.fetchCheck, hR.pc h]

theorem StepRelation.fetchWord {s s' : State} (h : R s s') : s'.fetchWord = s.fetchWord := by
  simp only [State.fetchWord, State.byteAt, hR.pc h, hR.mem h]

theorem StepRelation.waitsForKey {s s' : State} (h : R s s') (i : Instr) : waitsForKey i s' = waitsForKey i s := by
  simp only [Machine.waitsForKey, State.lowestKey, hR.key h]

theorem StepRelation.exec {s s' t : State} (h : R s s') {i : Instr} (he : exec i s = .next t) :
    ∃ t', exec i s' = .next t' ∧ R t t' := by
  obtain ⟨r, hi, rfl⟩ | ⟨hi, rfl⟩ := exec_cases he
  · exact ⟨_, exec_of_check_some ((hR.check h i).trans hi), hR.raise h r⟩
  · exact ⟨_, exec_of_check_none ((hR.check h i).trans hi), hR.effect h i hi⟩

theorem StepRelation.afterExecute {s s' t t' : State} (h : R s s') (ht : R t t') (i : Instr) :
    R (s.afterExecute i t) (s'.afterExecute i t') := by
  have hcond : (Machine.waitsForKey i s' || t'.halted) = (Machine.waitsForKey i s || t.halted) := by
    simp only [State.halted, hR.waitsForKey h, hR.fault ht]
  simp only [State.afterExecute, hcond]
  cases Machine.waitsForKey i s || t.halted with
  | true => exact ht
  | false => exact hR.tick ht

/-- Related states take steps to related states. -/
theorem StepRelation.step {s s' t : State} (h : R s s') (hstep : step s = .next t) :
    ∃ t', step s' = .next t' ∧ R t t' := by
  have hf := hR.fault h
  have hc := hR.fetchCheck h
  have hw := congrArg decodeWord (hR.fetchWord h)
  obtain ⟨h0, rfl⟩ | ⟨h0, r, hr, rfl⟩ | ⟨h0, hr, hd, rfl⟩ | ⟨h0, hr, i, u, hd, he, rfl⟩ := step_cases hstep
  · exact ⟨s', step_halted (hf ▸ h0), h⟩
  · exact ⟨_, step_fetchFault (hf.trans h0) (hc.trans hr), hR.raise h r⟩
  · exact ⟨_, step_unrecognized (hf.trans h0) (hc.trans hr) (hw.trans hd), hR.tick (hR.advance h)⟩
  · obtain ⟨u', he', hu⟩ := hR.exec h he
    exact ⟨_, step_exec (hf.trans h0) (hc.trans hr) (hw.trans hd) he', hR.afterExecute h hu i⟩

/-- Related states run to related states. -/
theorem StepRelation.reachesIn {k : Nat} {s s' t : State} (h : R s s') (hrun : ReachesIn k s t) :
    ∃ t', ReachesIn k s' t' ∧ R t t' := by
  induction k generalizing s s' with
  | zero => cases hrun; exact ⟨s', rfl, h⟩
  | succ k ih =>
    obtain ⟨u, hstep, hrest⟩ := hrun
    obtain ⟨u', hstep', hu⟩ := hR.step h hstep
    obtain ⟨t', hrest', ht⟩ := ih hu hrest
    exact ⟨t', ⟨u', hstep', hrest'⟩, ht⟩

end

/-! ### ST and DIRTY -/

/-- Equal but for ST and DIRTY (10_state.md R27, R30). -/
def EqualButOutputs (s s' : State) : Prop := ∃ b d, s' = { s with st := b, dirty := d }

theorem EqualButOutputs.effect {s s' : State} (h : EqualButOutputs s s') (i : Instr) :
    EqualButOutputs (s.effect i) (s'.effect i) := by
  obtain ⟨b, d, rfl⟩ := h
  cases i with
  | cls => exact ⟨b, true, rfl⟩
  | drw x y n => exact ⟨b, true, rfl⟩
  | ldStVx x => exact ⟨s.reg x, d, rfl⟩
  | ldVxK x => exact ⟨b, d, State.takeKey_comm (fun s => { s with st := b, dirty := d }) s x rfl fun _ => rfl⟩
  | _ => exact ⟨b, d, rfl⟩

theorem EqualButOutputs.stepRelation : StepRelation EqualButOutputs where
  fault := by rintro s _ ⟨b, d, rfl⟩; rfl
  pc := by rintro s _ ⟨b, d, rfl⟩; rfl
  mem := by rintro s _ ⟨b, d, rfl⟩; rfl
  key := by rintro s _ ⟨b, d, rfl⟩; rfl
  check := by rintro s _ ⟨b, d, rfl⟩ i; cases i <;> rfl
  raise := by rintro s _ ⟨b, d, rfl⟩ r; exact ⟨b, d, rfl⟩
  advance := by rintro s _ ⟨b, d, rfl⟩; exact ⟨b, d, rfl⟩
  effect h i _ := h.effect i
  tick := by rintro s _ ⟨b, d, rfl⟩; exact ⟨timerDec b, d, rfl⟩

/-! ### Stale stack slots -/

/-- Equal but for stack slots at and above SP (10_state.md R25). -/
def EqualBelowSp (s s' : State) : Prop :=
  ∃ stk, s' = { s with stack := stk } ∧ ∀ k (_ : k < 16), k < s.sp.val → stk[k] = s.stack[k]

/-- A `CALL` writes the same slot in both and makes it live. -/
theorem EqualBelowSp.call {s s' : State} (h : EqualBelowSp s s') (nnn : Addr12) (hi : s.check (.call nnn) = none) :
    EqualBelowSp (s.effect (.call nnn)) (s'.effect (.call nnn)) := by
  obtain ⟨stk, rfl, hlive⟩ := h
  refine ⟨stk.setIfInBounds s.sp.val (s.pc + 2), rfl, fun k hk hlt => ?_⟩
  have hsp : (s.push (s.pc + 2)).sp.val = s.sp.val + 1 := s.push_sp_val _ ((State.pushCheck_eq_none s).1 hi)
  have hlt : k < (s.push (s.pc + 2)).sp.val := hlt
  show _ = (s.push (s.pc + 2)).stack[k]
  rw [State.push_stack_getElem, Vector.getElem_setIfInBounds]
  split
  · rfl
  · exact hlive k hk (by omega)

/-- A `RET` reads the last live slot, which both have, and gives it up. -/
theorem EqualBelowSp.ret {s s' : State} (h : EqualBelowSp s s') (hi : s.check .ret = none) :
    EqualBelowSp (s.effect .ret) (s'.effect .ret) := by
  obtain ⟨stk, rfl, hlive⟩ := h
  have h0 : s.sp.val ≠ 0 := (State.popCheck_eq_none s).1 hi
  have htop : State.top { s with stack := stk } = s.top := hlive (s.sp.val - 1) (by omega) (by omega)
  refine ⟨stk, ?_, fun k hk hlt => ?_⟩
  · show State.setPc _ (State.top { s with stack := stk }) = _
    rw [htop]; rfl
  · have hsp : s.pop.sp.val = s.sp.val - 1 := s.pop_sp_val h0
    have hlt : k < s.pop.sp.val := hlt
    exact hlive k hk (by omega)

theorem EqualBelowSp.effect {s s' : State} (h : EqualBelowSp s s') (i : Instr) (hi : s.check i = none) :
    EqualBelowSp (s.effect i) (s'.effect i) := by
  cases i with
  | call nnn => exact h.call nnn hi
  | ret => exact h.ret hi
  | ldVxK x =>
    obtain ⟨stk, rfl, hlive⟩ := h
    refine ⟨stk, State.takeKey_comm (fun s => { s with stack := stk }) s x rfl fun _ => rfl, ?_⟩
    obtain ⟨hsp, hstack⟩ := (s.effect_changesOnly (.ldVxK x)).calls (by simp [writtenParts])
    rw [hsp, hstack]
    exact hlive
  | _ =>
    obtain ⟨stk, rfl, hlive⟩ := h
    exact ⟨stk, rfl, hlive⟩

theorem EqualBelowSp.stepRelation : StepRelation EqualBelowSp where
  fault := by rintro s _ ⟨stk, rfl, -⟩; rfl
  pc := by rintro s _ ⟨stk, rfl, -⟩; rfl
  mem := by rintro s _ ⟨stk, rfl, -⟩; rfl
  key := by rintro s _ ⟨stk, rfl, -⟩; rfl
  check := by rintro s _ ⟨stk, rfl, -⟩ i; cases i <;> rfl
  raise := by rintro s _ ⟨stk, rfl, h⟩ r; exact ⟨stk, rfl, h⟩
  advance := by rintro s _ ⟨stk, rfl, h⟩; exact ⟨stk, rfl, h⟩
  effect h i hi := h.effect i hi
  tick := by rintro s _ ⟨stk, rfl, h⟩; exact ⟨stk, rfl, h⟩

end Sys2Proof.Machine

namespace Sys2Proof.Proofs
open Sys2Proof.Machine

/-- Settles O23: 'equal but for ST and DIRTY' is kept by every step, so by every run. -/
theorem soundTimerAndDirtyFlagInfluenceNothingElse : Obligations.SoundTimerAndDirtyFlagInfluenceNothingElse := by
  constructor
  · intro s t b d h
    obtain ⟨_, ht', b', d', rfl⟩ := EqualButOutputs.stepRelation.step ⟨b, d, rfl⟩ h
    exact ⟨b', d', ht'⟩
  · intro k s t b d h
    obtain ⟨_, ht', b', d', rfl⟩ := EqualButOutputs.stepRelation.reachesIn ⟨b, d, rfl⟩ h
    exact ⟨b', d', ht'⟩

/-- Settles O24: 'equal but for stack slots at and above SP' is kept by every step. -/
theorem staleStackSlotsInfluenceNothing : Obligations.StaleStackSlotsInfluenceNothing := by
  intro s t stk hlive h
  obtain ⟨_, ht', stk', rfl, hlive'⟩ := EqualBelowSp.stepRelation.step ⟨stk, rfl, hlive⟩ h
  exact ⟨stk', ht', hlive'⟩

end Sys2Proof.Proofs
end

section
/-! SUPPORT. The proof of the statement about memory that the program itself writes (spec 20_memory.md R72): a store is seen
by the next fetch. Before it what a store and a register dump leave in the cells they write, and what of a step the tick
does not touch. -/

namespace Sys2Proof.Machine

/-! ### The cells a store and a register dump write -/

theorem State.storeBytes_byteAt_inside (s : State) (p : Nat) (bs : List Byte) {k : Nat} (hk : k < bs.length) :
    (s.storeBytes p bs).byteAt (p + k) = bs.getD k 0 := by
  have hread := memRead_memWriteBytes s.mem p bs (p + k)
  rwa [if_pos (by omega), Nat.add_sub_cancel_left] at hread

theorem State.effect_dump_byteAt_reg (s : State) (x r : RegIdx) (hr : r ≤ x) :
    (s.effect (.dump x)).byteAt (s.i.toNat + r.val) = s.reg r := by
  have hlt : r.val < x.val + 1 := Nat.lt_succ_of_le hr
  have hlen : r.val < (s.firstRegs (x.val + 1)).length := by rwa [s.firstRegs_length _ x.isLt]
  calc (s.effect (.dump x)).byteAt (s.i.toNat + r.val)
      = (s.firstRegs (x.val + 1)).getD r.val 0 :=
        s.storeBytes_byteAt_inside s.i.toNat (s.firstRegs (x.val + 1)) hlen
    _ = s.reg r := s.firstRegs_getD _ _ hlt x.isLt

/-! ### The step of an instruction whose check passes -/

theorem step_effect {s : State} {i : Instr} (hf : s.fault = 0) (hpc : s.pc.toNat ≤ 4094)
    (hd : decodeWord s.fetchWord = some i) (hi : s.check i = none) :
    step s = .next (s.afterExecute i (s.effect i)) :=
  step_exec hf ((State.fetchCheck_eq_none s).2 hpc) hd (exec_of_check_none hi)

theorem State.afterExecute_pc (s : State) (i : Instr) (t : State) : (s.afterExecute i t).pc = t.pc := by
  obtain h | h := s.afterExecute_cases i t <;> rw [h]
  rfl

theorem State.afterExecute_fetchWord (s : State) (i : Instr) (t : State) :
    (s.afterExecute i t).fetchWord = t.fetchWord := by
  obtain h | h := s.afterExecute_cases i t <;> rw [h]
  rfl

/-! ### The word fetched -/

/-- A dump of at least two registers at PC + 2 writes V[0] and V[1] to the two bytes of the next instruction. -/
theorem State.effect_dump_fetchWord {s : State} {x : RegIdx} (hx : 1 ≤ x.val) (hi : s.i = s.pc + 2) :
    (s.effect (.dump x)).fetchWord = wordOfBytes (s.reg 0) (s.reg 1) := by
  have hpc : (s.effect (.dump x)).pc = s.i := hi.symm
  rw [State.fetchWord, hpc]
  exact congrArg₂ wordOfBytes (s.effect_dump_byteAt_reg x 0 (Nat.zero_le _)) (s.effect_dump_byteAt_reg x 1 hx)

end Sys2Proof.Machine

namespace Sys2Proof.Proofs
open Sys2Proof.Machine

/-- Settles O47: the dump passes its check and writes the two bytes at PC + 2, and the tick leaves them and PC alone. -/
theorem storeIsSeenByTheNextFetch : Obligations.StoreIsSeenByTheNextFetch := by
  intro s x hfault hpc hx hi hspan hdecode
  have hcheck : s.check (.dump x) = none := (s.spanCheck_eq_none x.val).2 hspan
  refine ⟨_, step_effect hfault (by omega) hdecode hcheck, State.afterExecute_pc .., ?_⟩
  rw [State.afterExecute_fetchWord, State.effect_dump_fetchWord hx hi, toNat_wordOfBytes, Nat.mul_comm]

end Sys2Proof.Proofs
end

section
/-! SUPPORT. Proofs of the statements about the encoding (spec 30_encoding.md). Before them the laws of the decoder: it and
the encoder undo each other, the words it does not recognize are those of R97, and the rows of the opcode map are disjoint
and match exactly the words it recognizes. -/

namespace Sys2Proof

/-! ### Decoding an encoded instruction -/

theorem nField_formatXY_fin (op : Nat) (x y n : RegIdx) (h : op < 16) : nField (formatXY op x y n.val) = n :=
  Fin.ext (nField_formatXY op x y n.val h n.isLt)

theorem ofFin_nField_formatXY (op : Nat) (x y : RegIdx) (low : BitVec 4) (h : op < 16) :
    BitVec.ofFin (nField (formatXY op x y low.toNat)) = low :=
  congrArg BitVec.ofFin (nField_formatXY_fin op x y low.toFin h)

/-- Format by format, the fields the decoder reads are those the encoder wrote. -/
theorem decodeWord_encodeWord (i : Instr) : decodeWord (encodeWord i) = some i := by
  cases i with
  | cls | ret => rfl
  | jp nnn | call nnn | ldI nnn | jpV0 nnn =>
    simp [encodeWord, decodeWord, opField_formatA, nnnField_formatA]
  | seImm x kk | sneImm x kk | ldImm x kk | addImm x kk | rnd x kk =>
    simp [encodeWord, decodeWord, opField_formatXK, xField_formatXK, kkField_formatXK]
  | seReg x y low | sneReg x y low =>
    simp [encodeWord, decodeWord, opField_formatXY, xField_formatXY, yField_formatXY, ofFin_nField_formatXY, low.isLt]
  | drw x y n =>
    simp [encodeWord, decodeWord, opField_formatXY, xField_formatXY, yField_formatXY, nField_formatXY_fin]
  | ldReg x y | orReg x y | andReg x y | xorReg x y | addReg x y | sub x y | shr x y | subn x y | shl x y =>
    simp [encodeWord, decodeWord, decodeGroup8, opField_formatXY, xField_formatXY, yField_formatXY, nField_formatXY]
  | skp x | sknp x =>
    simp [encodeWord, decodeWord, decodeGroupE, opField_formatXK, xField_formatXK, kkField_formatXK]
  | ldVxDt x | ldVxK x | ldDtVx x | ldStVx x | addI x | ldF x | ldB x | dump x | load x =>
    simp [encodeWord, decodeWord, decodeGroupF, opField_formatXK, xField_formatXK, kkField_formatXK]

/-! ### Encoding a decoded word -/

section
variable {w : Word} {op n : Nat}

theorem opField_lt (w : Word) : opField w < 16 := by
  have := w.isLt
  simp only [opField]; omega

theorem formatA_fields (ho : opField w = op) : formatA op (nnnField w) = w := by
  subst ho
  apply BitVec.eq_of_toNat_eq
  rw [toNat_formatA _ _ (opField_lt w)]
  simp only [opField, nnnField, BitVec.toNat_ofNat]; omega

theorem formatXK_fields (ho : opField w = op) : formatXK op (xField w) (kkField w) = w := by
  subst ho
  apply BitVec.eq_of_toNat_eq
  rw [toNat_formatXK _ _ _ (opField_lt w)]
  simp only [opField, xField, kkField, BitVec.toNat_ofNat, Fin.val_ofNat]; omega

theorem formatXY_fields (ho : opField w = op) (hn : (nField w).val = n) : formatXY op (xField w) (yField w) n = w := by
  subst ho hn
  apply BitVec.eq_of_toNat_eq
  rw [toNat_formatXY _ _ _ _ (opField_lt w) (nField w).isLt]
  simp only [opField, xField, yField, nField, Fin.val_ofNat]; omega

/-- A word whose low byte is the selector `n` (format XS of R92). -/
theorem formatXK_selector (ho : opField w = op) (hn : (kkField w).toNat = n) :
    formatXK op (xField w) (BitVec.ofNat 8 n) = w := by
  rw [← hn, BitVec.ofNat_toNat, BitVec.setWidth_eq, formatXK_fields ho]

end

theorem encodeWord_of_decodeGroup0 {w : Word} {i : Instr} (h : decodeGroup0 w = some i) : encodeWord i = w := by
  unfold decodeGroup0 at h
  split at h
  case isTrue hw => cases h; exact hw.symm
  case isFalse =>
    obtain ⟨hw, hi⟩ : w = 0x00EE ∧ .ret = i := by simpa using h
    subst hi; exact hw.symm

theorem encodeWord_of_decodeGroup8 {w : Word} {i : Instr} (ho : opField w = 0x8) (h : decodeGroup8 w = some i) :
    encodeWord i = w := by
  unfold decodeGroup8 at h
  split at h <;> cases h
  all_goals exact formatXY_fields ho ‹_›

theorem encodeWord_of_decodeGroupE {w : Word} {i : Instr} (ho : opField w = 0xE) (h : decodeGroupE w = some i) :
    encodeWord i = w := by
  unfold decodeGroupE at h
  split at h <;> cases h
  all_goals exact formatXK_selector ho ‹_›

theorem encodeWord_of_decodeGroupF {w : Word} {i : Instr} (ho : opField w = 0xF) (h : decodeGroupF w = some i) :
    encodeWord i = w := by
  unfold decodeGroupF at h
  split at h <;> cases h
  all_goals exact formatXK_selector ho ‹_›

theorem encodeWord_of_decodeWord {w : Word} {i : Instr} (h : decodeWord w = some i) : encodeWord i = w := by
  have hlt := opField_lt w
  unfold decodeWord at h
  split at h
  case h_1 => exact encodeWord_of_decodeGroup0 h
  case h_9 ho => exact encodeWord_of_decodeGroup8 ho h
  case h_15 ho => exact encodeWord_of_decodeGroupE ho h
  case h_16 =>
    simp only [imp_false] at *
    exact encodeWord_of_decodeGroupF (by omega) h
  case h_2 ho | h_3 ho | h_11 ho | h_12 ho => cases h; exact formatA_fields ho
  case h_4 ho | h_5 ho | h_7 ho | h_8 ho | h_13 ho => cases h; exact formatXK_fields ho
  case h_6 ho | h_10 ho | h_14 ho => cases h; exact formatXY_fields ho rfl

/-! ### The unrecognized words -/

theorem decodeGroup0_eq_none_iff (w : Word) : decodeGroup0 w = none ↔ w.toNat ≠ 0x00E0 ∧ w.toNat ≠ 0x00EE := by
  simp only [decodeGroup0, ← BitVec.toNat_inj]
  split_ifs <;> simp_all

theorem decodeGroup8_eq_none_iff (w : Word) :
    decodeGroup8 w = none ↔ w.toNat % 16 ∈ [0x8, 0x9, 0xA, 0xB, 0xC, 0xD, 0xF] := by
  have hn : (nField w).val = w.toNat % 16 := rfl
  have hlt : w.toNat % 16 < 16 := Nat.mod_lt _ (by decide)
  rw [decodeGroup8, hn]
  generalize w.toNat % 16 = n at hlt
  interval_cases n <;> simp

theorem decodeGroupE_eq_none_iff (w : Word) : decodeGroupE w = none ↔ w.toNat % 256 ∉ [0x9E, 0xA1] := by
  have hk : (kkField w).toNat = w.toNat % 256 := BitVec.toNat_ofNat ..
  rw [decodeGroupE, hk]
  split <;> simp_all

theorem decodeGroupF_eq_none_iff (w : Word) :
    decodeGroupF w = none ↔ w.toNat % 256 ∉ [0x07, 0x0A, 0x15, 0x18, 0x1E, 0x29, 0x33, 0x55, 0x65] := by
  have hk : (kkField w).toNat = w.toNat % 256 := BitVec.toNat_ofNat ..
  rw [decodeGroupF, hk]
  split <;> simp_all

/-- The table of R97: a word is unrecognized when the group its first digit selects leaves it out, which only groups 0, 8,
E and F do. -/
theorem decodeWord_eq_none_iff (w : Word) : decodeWord w = none ↔
    (w.toNat / 4096 = 0x0 ∧ w.toNat ≠ 0x00E0 ∧ w.toNat ≠ 0x00EE) ∨
    (w.toNat / 4096 = 0x8 ∧ w.toNat % 16 ∈ [0x8, 0x9, 0xA, 0xB, 0xC, 0xD, 0xF]) ∨
    (w.toNat / 4096 = 0xE ∧ w.toNat % 256 ∉ [0x9E, 0xA1]) ∨
    (w.toNat / 4096 = 0xF ∧ w.toNat % 256 ∉ [0x07, 0x0A, 0x15, 0x18, 0x1E, 0x29, 0x33, 0x55, 0x65]) := by
  rw [← decodeGroup0_eq_none_iff, ← decodeGroup8_eq_none_iff, ← decodeGroupE_eq_none_iff, ← decodeGroupF_eq_none_iff]
  have hop : w.toNat / 4096 = opField w := rfl
  have hlt := opField_lt w
  rw [hop, decodeWord]
  generalize opField w = op at hlt
  interval_cases op <;> simp

/-! ### The rows of the opcode map -/

theorem OpcodeRow.fits_iff (r : OpcodeRow) (w : Word) : r.fits w = true ↔ w &&& r.mask = r.pattern := by
  rw [OpcodeRow.fits, beq_iff_eq]

/-- Two rows that a word fits agree on the bits that both masks test. -/
theorem OpcodeRow.patterns_agree_of_fits {r r' : OpcodeRow} {w : Word} (h : r.fits w = true) (h' : r'.fits w = true) :
    r.pattern &&& r'.mask = r'.pattern &&& r.mask := by
  rw [← (r.fits_iff w).1 h, ← (r'.fits_iff w).1 h', BitVec.and_assoc, BitVec.and_assoc, BitVec.and_comm r.mask]

/-- No two rows agree on the bits that both masks test. -/
theorem opcodeMap_patterns_differ :
    ∀ r ∈ opcodeMap, ∀ r' ∈ opcodeMap, r.pattern &&& r'.mask = r'.pattern &&& r.mask → r = r' := by
  decide

theorem opcodeMap_eq_of_fits {w : Word} {r r' : OpcodeRow} (hr : r ∈ opcodeMap) (hr' : r' ∈ opcodeMap)
    (h : r.fits w = true) (h' : r'.fits w = true) : r = r' :=
  opcodeMap_patterns_differ r hr r' hr' (OpcodeRow.patterns_agree_of_fits h h')

theorem opcodeMap_mnemonics_nodup : (opcodeMap.map (·.mnemonic)).Nodup := by decide

theorem opcodeMap_eq_of_mnemonic {r r' : OpcodeRow} (hr : r ∈ opcodeMap) (hr' : r' ∈ opcodeMap)
    (h : r.mnemonic = r'.mnemonic) : r = r' :=
  List.inj_on_of_nodup_map opcodeMap_mnemonics_nodup hr hr' h

/-- What the rows test, by mask: the whole word in group 0, the first digit alone in the groups of one instruction, the
first and last digit in group 8, the first digit and the low byte in groups E and F (R94). -/
theorem opcodeMap_rows_by_mask : ∀ r ∈ opcodeMap,
    (r.mask = 0xFFFF#16 ∧ r.pattern.toNat ∈ [0x00E0, 0x00EE]) ∨
    (r.mask = 0xF000#16 ∧ r.pattern.toNat / 4096 ∉ [0x0, 0x8, 0xE, 0xF]) ∨
    (r.mask = 0xF00F#16 ∧
      r.pattern.toNat / 4096 = 0x8 ∧ r.pattern.toNat % 16 ∉ [0x8, 0x9, 0xA, 0xB, 0xC, 0xD, 0xF]) ∨
    (r.mask = 0xF0FF#16 ∧
      (r.pattern.toNat / 4096 = 0xE ∧ r.pattern.toNat % 256 ∈ [0x9E, 0xA1] ∨
       r.pattern.toNat / 4096 = 0xF ∧
         r.pattern.toNat % 256 ∈ [0x07, 0x0A, 0x15, 0x18, 0x1E, 0x29, 0x33, 0x55, 0x65])) := by
  decide

/-- A word that fits a row is in none of the lines of R97. -/
theorem decodeWord_ne_none_of_fits {w : Word} {r : OpcodeRow} (hr : r ∈ opcodeMap) (h : r.fits w = true) :
    decodeWord w ≠ none := by
  rw [Ne, decodeWord_eq_none_iff]
  have hp := congrArg BitVec.toNat ((r.fits_iff w).1 h)
  obtain ⟨hm, hrow⟩ | ⟨hm, hrow⟩ | ⟨hm, ho, hrow⟩ | ⟨hm, hrow⟩ := opcodeMap_rows_by_mask r hr
  · rw [hm, and_mask_word] at hp
    rw [← hp] at hrow
    simp only [List.mem_cons, List.not_mem_nil, or_false] at hrow
    omega
  · rw [hm, toNat_and_mask_group] at hp
    have hop : r.pattern.toNat / 4096 = w.toNat / 4096 := by rw [← hp, opField]; omega
    rw [hop] at hrow
    simp only [List.mem_cons, List.not_mem_nil, or_false] at hrow
    omega
  · rw [hm, toNat_and_mask_nibble] at hp
    have hop : r.pattern.toNat / 4096 = w.toNat / 4096 := by rw [← hp, opField]; omega
    have hn : r.pattern.toNat % 16 = w.toNat % 16 := by omega
    rw [hop] at ho
    rw [hn] at hrow
    simp [ho, hrow]
  · rw [hm, toNat_and_mask_byte] at hp
    have hop : r.pattern.toNat / 4096 = w.toNat / 4096 := by rw [← hp, opField]; omega
    have hk : r.pattern.toNat % 256 = w.toNat % 256 := by omega
    rw [hop, hk] at hrow
    obtain ⟨ho, hrow⟩ | ⟨ho, hrow⟩ := hrow <;> simp [ho, hrow]

open Laws in
/-- The row of every instruction. -/
theorem exists_row_of_instr : ∀ i : Instr, InOpcodeMap.Statement i
  | .cls => InOpcodeMap.cls
  | .ret => InOpcodeMap.ret
  | .jp nnn => InOpcodeMap.jp nnn
  | .call nnn => InOpcodeMap.call nnn
  | .seImm x kk => InOpcodeMap.seImm x kk
  | .sneImm x kk => InOpcodeMap.sneImm x kk
  | .seReg x y low => InOpcodeMap.seReg x y low
  | .ldImm x kk => InOpcodeMap.ldImm x kk
  | .addImm x kk => InOpcodeMap.addImm x kk
  | .ldReg x y => InOpcodeMap.ldReg x y
  | .orReg x y => InOpcodeMap.orReg x y
  | .andReg x y => InOpcodeMap.andReg x y
  | .xorReg x y => InOpcodeMap.xorReg x y
  | .addReg x y => InOpcodeMap.addReg x y
  | .sub x y => InOpcodeMap.sub x y
  | .shr x y => InOpcodeMap.shr x y
  | .subn x y => InOpcodeMap.subn x y
  | .shl x y => InOpcodeMap.shl x y
  | .sneReg x y low => InOpcodeMap.sneReg x y low
  | .ldI nnn => InOpcodeMap.ldI nnn
  | .jpV0 nnn => InOpcodeMap.jpV0 nnn
  | .rnd x kk => InOpcodeMap.rnd x kk
  | .drw x y n => InOpcodeMap.drw x y n
  | .skp x => InOpcodeMap.skp x
  | .sknp x => InOpcodeMap.sknp x
  | .ldVxDt x => InOpcodeMap.ldVxDt x
  | .ldVxK x => InOpcodeMap.ldVxK x
  | .ldDtVx x => InOpcodeMap.ldDtVx x
  | .ldStVx x => InOpcodeMap.ldStVx x
  | .addI x => InOpcodeMap.addI x
  | .ldF x => InOpcodeMap.ldF x
  | .ldB x => InOpcodeMap.ldB x
  | .dump x => InOpcodeMap.dump x
  | .load x => InOpcodeMap.load x

/-- The word of a decoded instruction fits the row of its mnemonic. -/
theorem exists_row_of_decodeWord {w : Word} {i : Instr} (h : decodeWord w = some i) :
    ∃ r ∈ opcodeMap, r.mnemonic = i.mnemonic ∧ r.fits w = true :=
  encodeWord_of_decodeWord h ▸ exists_row_of_instr i

/-- A word fits a row exactly when the decoder reads an instruction of its mnemonic: a word that fits decodes to the
instruction of some row, which it fits too, and no word fits two rows. -/
theorem OpcodeRow.fits_iff_decodeWord {r : OpcodeRow} (hr : r ∈ opcodeMap) (w : Word) :
    r.fits w = true ↔ ∃ i, decodeWord w = some i ∧ i.mnemonic = r.mnemonic := by
  constructor
  · intro h
    obtain ⟨i, hi⟩ := Option.ne_none_iff_exists'.1 (decodeWord_ne_none_of_fits hr h)
    obtain ⟨r', hr', hm, h'⟩ := exists_row_of_decodeWord hi
    obtain rfl := opcodeMap_eq_of_fits hr hr' h h'
    exact ⟨i, hi, hm.symm⟩
  · rintro ⟨i, hi, hm⟩
    obtain ⟨r', hr', hm', h'⟩ := exists_row_of_decodeWord hi
    obtain rfl := opcodeMap_eq_of_mnemonic hr hr' (hm.symm.trans hm'.symm)
    exact h'

end Sys2Proof

namespace Sys2Proof.Proofs

/-- Settles O1: the bytes of an instruction are put together to its word, whose fields are the operands. -/
theorem decodeOfEncodeGivesTheInstructionBack : Obligations.DecodeOfEncodeGivesTheInstructionBack := by
  intro i rest
  show decode (hiByte (encodeWord i) :: loByte (encodeWord i) :: rest) = .ok (i, rest)
  rw [decode, wordOfBytes_hi_lo, decodeWord_encodeWord]

/-- Settles O2: the operands the decoder reads, ignored ones included, hold every bit its dispatch does not test. -/
theorem encodeOfDecodeGivesTheWordBack : Obligations.EncodeOfDecodeGivesTheWordBack :=
  fun _ _ => encodeWord_of_decodeWord

/-- Settles O3: a word that fits a row is recognized, its instruction has a row that it fits, and no word fits two rows. -/
theorem wordIsARowsInstructionExactlyWhenItsMaskMatches :
    Obligations.WordIsARowsInstructionExactlyWhenItsMaskMatches :=
  fun w r hr => (r.fits_iff w).symm.trans (OpcodeRow.fits_iff_decodeWord hr w)

/-- Settles O4: two rows differ on a bit that both masks test. -/
theorem opcodeMapRowsAreDisjoint : Obligations.OpcodeMapRowsAreDisjoint :=
  fun _ _ _ => opcodeMap_eq_of_fits

/-- Settles O5: group by group, the words the decoder leaves out. -/
theorem unrecognizedWordsAreThoseOfFourGroups : Obligations.UnrecognizedWordsAreThoseOfFourGroups :=
  decodeWord_eq_none_iff

/-- Settles O6: the decoder run on the seven words. -/
theorem wordsWrittenFromTheMapDecode : Obligations.WordsWrittenFromTheMapDecode := by
  unfold Obligations.WordsWrittenFromTheMapDecode
  decide

end Sys2Proof.Proofs
end

section
/-! SUPPORT. Proofs of the statements about the step (spec 40_step.md). Before them what a step does and which status it
reports, said once for both, and what each effect leaves in PC and the timers. -/

namespace Sys2Proof.Machine

/-! ### A step and its status -/

/-- What the step from `s` reports and the state it leaves (40_step.md R129): `step_outcome` ties it to `step` and
`stepStatus`. -/
inductive StepOutcome (s : State) : Status → State → Prop where
  | halted : s.fault ≠ 0 → StepOutcome s .halted s
  | fetchFault {r : Raise} : s.fault = 0 → s.fetchCheck = some r → StepOutcome s (.fault r) (s.raise r)
  | unrecognized : s.fault = 0 → s.fetchCheck = none → decodeWord s.fetchWord = none →
      StepOutcome s (.decodeError s.fetchWord) s.advance.tick
  | instrFault {i : Instr} {r : Raise} : s.fault = 0 → s.fetchCheck = none → decodeWord s.fetchWord = some i →
      s.check i = some r → StepOutcome s (.fault r) (s.raise r)
  | keyWait {i : Instr} : s.fault = 0 → decodeWord s.fetchWord = some i → waitsForKey i s = true →
      StepOutcome s .keyWait s
  | completed {i : Instr} : s.fault = 0 → decodeWord s.fetchWord = some i → s.check i = none →
      waitsForKey i s = false → StepOutcome s .ok (s.effect i).tick

theorem stepStatus_halted {s : State} (h : s.fault ≠ 0) : stepStatus s = .halted :=
  if_pos ((State.halted_iff s).2 h)

theorem stepStatus_fetchFault {s : State} {r : Raise} (h : s.fault = 0) (hc : s.fetchCheck = some r) :
    stepStatus s = .fault r := by
  simp [stepStatus, (State.halted_eq_false s).2 h, hc]

theorem stepStatus_unrecognized {s : State} (h : s.fault = 0) (hc : s.fetchCheck = none)
    (hd : decodeWord s.fetchWord = none) : stepStatus s = .decodeError s.fetchWord := by
  simp [stepStatus, (State.halted_eq_false s).2 h, hc, hd]

theorem stepStatus_exec {s : State} {i : Instr} (h : s.fault = 0) (hc : s.fetchCheck = none)
    (hd : decodeWord s.fetchWord = some i) : stepStatus s = s.execStatus i := by
  simp [stepStatus, (State.halted_eq_false s).2 h, hc, hd]

theorem State.execStatus_of_check_some {s : State} {i : Instr} {r : Raise} (h : s.check i = some r) :
    s.execStatus i = .fault r := by
  simp [State.execStatus, h]

theorem State.execStatus_of_check_none {s : State} {i : Instr} (h : s.check i = none) :
    s.execStatus i = if waitsForKey i s then .keyWait else .ok := by
  simp [State.execStatus, h]

theorem waitsForKey_iff (i : Instr) (s : State) :
    waitsForKey i s = true ↔ (∃ x, i = .ldVxK x) ∧ s.lowestKey = none := by
  cases i <;> simp [waitsForKey]

/-- A key wait leaves the state as it is (45_keypad_timers.md R253). -/
theorem State.effect_of_waitsForKey {s : State} {i : Instr} (h : waitsForKey i s = true) : s.effect i = s := by
  obtain ⟨⟨x, rfl⟩, hkey⟩ := (waitsForKey_iff i s).1 h
  show s.takeKey x = s
  rw [State.takeKey, hkey]

theorem State.afterExecute_of_waitsForKey {s : State} {i : Instr} (h : waitsForKey i s = true) (t : State) :
    s.afterExecute i t = t := by
  simp [State.afterExecute, h]

theorem State.afterExecute_of_fault {t : State} (h : t.fault ≠ 0) (s : State) (i : Instr) : s.afterExecute i t = t := by
  simp [State.afterExecute, (State.halted_iff t).2 h]

theorem State.afterExecute_of_completes {s t : State} {i : Instr} (hw : waitsForKey i s = false) (ht : t.fault = 0) :
    s.afterExecute i t = t.tick := by
  simp [State.afterExecute, hw, (State.halted_eq_false t).2 ht]

theorem State.effect_fault (s : State) (i : Instr) : (s.effect i).fault = s.fault := (s.effect_changesOnly i).fault

/-- Every step has one of the six outcomes, in the order of the checks: halted, fetch, decode, instruction, key wait. -/
theorem step_outcome {s t : State} (h : step s = .next t) : StepOutcome s (stepStatus s) t := by
  obtain ⟨hf, rfl⟩ | ⟨hf, r, hc, rfl⟩ | ⟨hf, hc, hd, rfl⟩ | ⟨hf, hc, i, u, hd, he, rfl⟩ := step_cases h
  · exact stepStatus_halted hf ▸ .halted hf
  · exact stepStatus_fetchFault hf hc ▸ .fetchFault hf hc
  · exact stepStatus_unrecognized hf hc hd ▸ .unrecognized hf hc hd
  · rw [stepStatus_exec hf hc hd]
    obtain ⟨r, hi, rfl⟩ | ⟨hi, rfl⟩ := exec_cases he
    · rw [State.execStatus_of_check_some hi, State.afterExecute_of_fault (Cause.code_ne_zero r.cause)]
      exact .instrFault hf hc hd hi
    · rw [State.execStatus_of_check_none hi]
      cases hw : waitsForKey i s with
      | true =>
        rw [State.afterExecute_of_waitsForKey hw, State.effect_of_waitsForKey hw]
        exact .keyWait hf hd hw
      | false =>
        rw [State.afterExecute_of_completes hw ((s.effect_fault i).trans hf)]
        exact .completed hf hd hi hw

/-! ### Keys -/

theorem State.lowestKey_ne_none (s : State) : s.lowestKey ≠ none ↔ ∃ k : KeyIdx, s.key[k.val] = true := by
  simp [State.lowestKey_eq_none]

theorem State.key_getElem?_eq_some (s : State) {n : Nat} (hn : n ≤ 15) (b : Bool) :
    s.key[n]? = some b ↔ s.keyDown n = b := by
  have hlt : n < 16 := by omega
  rw [s.keyDown_eq ⟨n, hlt⟩, Vector.getElem?_eq_getElem hlt, Option.some_inj]

/-! ### Timers -/

theorem timerDec_eq_ite (t : Byte) : timerDec t = if t = 0 then 0 else t - 1 := by
  apply BitVec.eq_of_toNat_eq
  rw [timerDec_toNat]
  split <;> bv_omega

theorem State.tick_of_zero {s : State} (hdt : s.dt = 0) (hst : s.st = 0) : s.tick = s := by
  cases s
  cases hdt
  cases hst
  rfl

theorem State.effect_dt_of_ne {s : State} {i : Instr} (h : ∀ x, i ≠ .ldDtVx x) : (s.effect i).dt = s.dt := by
  refine (s.effect_changesOnly i).delay ?_
  cases i with
  | ldDtVx x => exact absurd rfl (h x)
  | _ => simp [writtenParts]

theorem State.effect_st_of_ne {s : State} {i : Instr} (h : ∀ x, i ≠ .ldStVx x) : (s.effect i).st = s.st := by
  refine (s.effect_changesOnly i).sound ?_
  cases i with
  | ldStVx x => exact absurd rfl (h x)
  | _ => simp [writtenParts]

/-- A step that completes and stores nothing into DT lowers it by one (R127). -/
theorem step_dt_of_completed {s t : State} (h : step s = .next t)
    (hstatus : stepStatus s = .ok ∨ ∃ w, stepStatus s = .decodeError w)
    (hstore : ∀ x, decodeWord s.fetchWord ≠ some (.ldDtVx x)) : t.dt.toNat = s.dt.toNat - 1 := by
  have ho := step_outcome h
  generalize stepStatus s = r at ho hstatus
  cases ho with
  | unrecognized => exact timerDec_toNat s.dt
  | completed _ hd =>
    rw [State.tick_dt, timerDec_toNat, State.effect_dt_of_ne fun x hx => hstore x (hx ▸ hd)]
  | halted | fetchFault | instrFault | keyWait => simp at hstatus

/-! ### The program counter -/

theorem addrOperand_eq_wordOf (nnn : Addr12) : addrOperand nnn = wordOf nnn.toNat := by
  apply BitVec.eq_of_toNat_eq
  rw [addrOperand_toNat, BitVec.toNat_ofNat]
  have := nnn.isLt
  omega

theorem State.takeKey_pc (s : State) (x : RegIdx) :
    (s.takeKey x).pc = if ∃ k : KeyIdx, s.key[k.val] = true then s.pc + 2 else s.pc := by
  simp only [← State.lowestKey_ne_none, State.takeKey]
  cases s.lowestKey with
  | some k => rfl
  | none => rfl

/-- The PC an effect leaves is that of the table of R126. -/
theorem State.effect_pc {s : State} {i : Instr} (h : s.check i = none) : (s.effect i).pc = tabulatedPc s i := by
  cases i with
  | jp nnn | call nnn => exact addrOperand_eq_wordOf nnn
  | seImm x kk | sneImm x kk => simp [State.effect, tabulatedPc]
  | seReg x y low | sneReg x y low => simp [State.effect, tabulatedPc]
  | skp x | sknp x =>
    have hkey := State.key_getElem?_eq_some s ((s.keyCheck_eq_none x).1 h)
    simp [State.effect, State.regNat, tabulatedPc, ← hkey]
  | ldVxK x => exact s.takeKey_pc x
  | _ => rfl

/-! ### States that step to themselves -/

theorem reachesIn_of_step_self {s : State} (h : step s = .next s) (k : Nat) : ReachesIn k s s := by
  induction k with
  | zero => rfl
  | succ k ih => exact ⟨s, h, ih⟩

end Sys2Proof.Machine

namespace Sys2Proof.Proofs
open Sys2Proof.Machine

/-- Settles O13: the fetch check tests PC + 1 as a number, and a step that fails it raises code 1 and nothing else. -/
theorem fetchIsBigEndianAndFaultsPastTheEnd : Obligations.FetchIsBigEndianAndFaultsPastTheEnd := by
  intro s
  refine ⟨toNat_wordOfBytes _ _, s.fetchCheck_eq_none.symm, fun hf hpc => ?_⟩
  have hc := (s.fetchCheck_eq_some _).2 ⟨hpc, rfl⟩
  exact ⟨step_fetchFault hf hc, stepStatus_fetchFault hf hc⟩

/-- Settles O14: a halted state steps to itself, and the result of a reset takes nothing from the state but `draws`. -/
theorem haltedCoreStaysAsItIsUntilReset : Obligations.HaltedCoreStaysAsItIsUntilReset :=
  ⟨fun _ hf => ⟨reachesIn_of_step_self (step_halted hf), stepStatus_halted hf⟩,
    fun _ => ⟨rfl, rfl, rfl, rfl, rfl⟩, rfl⟩

/-- Settles O15: passing over the word is an advance of PC and a tick. -/
theorem unrecognizedWordIsSkippedAndReported : Obligations.UnrecognizedWordIsSkippedAndReported := by
  intro s hf hpc hd
  have hc := s.fetchCheck_eq_none.2 hpc
  refine ⟨?_, stepStatus_unrecognized hf hc hd⟩
  rw [step_unrecognized hf hc hd, ← timerDec_eq_ite, ← timerDec_eq_ite]
  rfl

/-- Settles O16: each of the six outcomes of a step is what R129 says under its status. -/
theorem statusTellsWhatTheStepChanged : Obligations.StatusTellsWhatTheStepChanged := by
  intro s t h
  have ho := step_outcome h
  generalize stepStatus s = r at ho
  cases ho with
  | halted hf => exact ⟨hf, rfl⟩
  | fetchFault hf hc =>
    exact ⟨hf, Cause.code_ne_zero _, rfl, .inl ((s.fetchCheck_eq_some _).1 hc).1⟩
  | unrecognized hf _ hd => exact ⟨hf, rfl, hd, rfl⟩
  | instrFault hf hc hd hi =>
    exact ⟨hf, Cause.code_ne_zero _, rfl, .inr ⟨_, s.fetchCheck_eq_none.1 hc, hd, exec_of_check_some hi⟩⟩
  | keyWait hf hd hw =>
    obtain ⟨⟨x, rfl⟩, hkey⟩ := (waitsForKey_iff _ s).1 hw
    exact ⟨hf, rfl, ⟨x, hd⟩, s.lowestKey_eq_none.1 hkey⟩
  | completed hf hd hi hw =>
    refine ⟨hf, (s.effect_fault _).trans hf, _, _, hd, exec_of_check_none hi, fun x hx => ?_, rfl⟩
    exact s.lowestKey_ne_none.1 fun hkey =>
      Bool.eq_false_iff.1 hw ((waitsForKey_iff _ s).2 ⟨⟨x, hx⟩, hkey⟩)

/-- Settles O19: only an unrecognized word and a completed instruction end with the tick, after an effect that writes a
timer only in that timer's own store. -/
theorem timersTickInCompletedStepsOnly : Obligations.TimersTickInCompletedStepsOnly := by
  intro s t h
  have ho := step_outcome h
  generalize stepStatus s = r at ho
  cases ho with
  | unrecognized _ _ hd => simp [hd, timerDec_toNat]
  | completed _ hd =>
    refine ⟨by simp, fun _ => ⟨?_, ?_⟩⟩
    · rw [State.tick_dt, timerDec_toNat, hd]
      split
      case h_1 hx => cases hx; rfl
      case h_2 hx => rw [State.effect_dt_of_ne fun x e => hx x (congrArg some e)]
    · rw [State.tick_st, timerDec_toNat, hd]
      split
      case h_1 hx => cases hx; rfl
      case h_2 hx => rw [State.effect_st_of_ne fun x e => hx x (congrArg some e)]
  | halted | fetchFault | instrFault | keyWait => exact ⟨fun _ => ⟨rfl, rfl⟩, by simp⟩

/-- Settles O20: an instruction whose check passes has its effect, which leaves the tabulated PC; a fault leaves PC alone. -/
theorem programCounterFollowsTheTable : Obligations.ProgramCounterFollowsTheTable := by
  refine ⟨fun i s t h => ?_, fun s => rfl⟩
  obtain ⟨r, hi, rfl⟩ | ⟨hi, rfl⟩ := exec_cases h
  · exact ⟨fun hne => absurd (State.execStatus_of_check_some hi) (hne r), fun _ => rfl⟩
  · exact ⟨fun _ => State.effect_pc hi, fun ⟨r, hr⟩ => absurd hr ((s.execStatus_ne_fault_iff i).2 hi r)⟩

/-- Settles O25: the jump writes PC its own value and the tick leaves timers at 0, so the state steps to itself. -/
theorem selfJumpIsAFixedPoint : Obligations.SelfJumpIsAFixedPoint := by
  intro s nnn hf hnnn hpc hdt hst hd
  have hself : s.effect (.jp nnn) = s := by
    show s.setPc (addrOperand nnn) = s
    rw [BitVec.eq_of_toNat_eq ((addrOperand_toNat nnn).trans hnnn.symm)]
    rfl
  have hstep := step_effect hf hpc hd rfl
  rw [hself, State.afterExecute_of_completes rfl hf, State.tick_of_zero hdt hst] at hstep
  exact reachesIn_of_step_self hstep

/-- Settles O26: the first step lowers DT by one, and the states of the rest of the run are those after it. -/
theorem delayTimerCountsCompletedSteps : Obligations.DelayTimerCountsCompletedSteps := by
  intro k
  induction k with
  | zero => rintro s _ - rfl; rfl
  | succ k ih =>
    rintro s t hall ⟨u, hstep, hrun⟩
    obtain ⟨_, rfl, hstatus, hstore⟩ := hall 0 k.succ_pos
    have hfirst := step_dt_of_completed hstep hstatus hstore
    have hrest := ih u t (fun j hj => ?_) hrun
    · omega
    · obtain ⟨v, ⟨u', hstep', hv⟩, hcompleted⟩ := hall (j + 1) (Nat.succ_lt_succ hj)
      obtain rfl : u = u' := by rw [hstep] at hstep'; cases hstep'; rfl
      exact ⟨v, hv, hcompleted⟩

/-- Settles O12: the word of the two bytes is the one fetched, and the tick is left out in a key wait and after a fault. -/
theorem stepRunsTheDecodedInstruction : Obligations.StepRunsTheDecodedInstruction := by
  intro s i hf hpc hd
  rw [Nat.mul_comm] at hd
  obtain ⟨t, ht⟩ := exec_next i s
  have hstep := step_exec hf (s.fetchCheck_eq_none.2 hpc) hd ht
  refine ⟨t, ht, ?_, fun hcompletes => ?_⟩
  · rintro (hw | hfault)
    · rw [hstep, State.afterExecute_of_waitsForKey hw]
    · rw [hstep, State.afterExecute_of_fault hfault]
  · obtain ⟨hw, hfault⟩ := not_or.1 hcompletes
    rw [hstep, State.afterExecute_of_completes (Bool.eq_false_of_not_eq_true hw) (not_not.1 hfault),
      ← timerDec_eq_ite, ← timerDec_eq_ite]
    rfl

/-- Settles O18: an execute phase raises a fault or has its effect, and each phase of a step answers a next state. -/
theorem everyStepAnswersANextState : Obligations.EveryStepAnswersANextState := ⟨step_next, exec_next⟩

end Sys2Proof.Proofs
end

section
/-! SUPPORT. Proofs of the statements about control transfer (spec 41_control_flow.md). Before them the call stack's laws
(a push undone by a pop), the PC of a skip, the words of R95 as the statements write them, and the two outcomes of an
instruction: a completed step, and a fault with its report. -/

namespace Sys2Proof

/-! ### Instruction words written as numbers (30_encoding.md R92, R95) -/

theorem formatXK_eq_wordOf (op : Nat) (x : RegIdx) (kk : Byte) :
    formatXK op x kk = wordOf (op * 4096 + 256 * x.val + kk.toNat) := by
  rw [formatXK, Nat.mul_comm x.val]

theorem formatXY_eq_wordOf (op : Nat) (x y : RegIdx) (low : Nat) :
    formatXY op x y low = wordOf (op * 4096 + 256 * x.val + 16 * y.val + low) := by
  rw [formatXY, Nat.mul_comm x.val, Nat.mul_comm y.val]

/-- A word decodes to the instruction whose encoding it is. -/
theorem decodeWord_eq_some_of_encodeWord {w : Word} {i : Instr} (h : encodeWord i = w) : decodeWord w = some i :=
  h ▸ decodeWord_encodeWord i

end Sys2Proof

namespace Sys2Proof.Machine

/-! ### Call stack -/

theorem State.pushCheck_of_full {s : State} (h : s.sp.val = 16) :
    s.pushCheck = some ⟨.stackOverflow, s.pc.toNat⟩ := if_pos h

theorem State.popCheck_of_empty {s : State} (h : s.sp.val = 0) :
    s.popCheck = some ⟨.stackUnderflow, s.pc.toNat⟩ := if_pos h

theorem State.stack_getElem?_pred_sp (s : State) : s.stack[s.sp.val - 1]? = some s.top :=
  Vector.getElem?_eq_getElem (by omega)

theorem State.push_pop_sp (s : State) (w : Word) : (s.push w).pop.sp = s.sp := add_sub_cancel_right s.sp 1

theorem State.push_top (s : State) (w : Word) (h : s.sp.val ≠ 16) : (s.push w).top = w := by
  have hslot : s.sp.val = (s.push w).sp.val - 1 := by rw [s.push_sp_val w h, Nat.add_sub_cancel]
  exact (s.push_stack_getElem w _ _).trans (if_pos hslot)

/-! ### PC -/

theorem wordOf_toNat_add_two (w : Word) : wordOf (w.toNat + 2) = w + 2 := by bv_omega

theorem State.skipIf_pc_toNat (s : State) (c : Bool) :
    (s.skipIf c).pc.toNat = (if c then s.pc.toNat + 4 else s.pc.toNat + 2) % 65536 := by
  rw [State.skipIf_pc]
  split <;> exact BitVec.toNat_add ..

/-- The skips on equality (41_control_flow.md R143, R145). -/
theorem State.skipIf_eq_pc_toNat (s : State) (a b : Byte) :
    (s.skipIf (a == b)).pc.toNat = (if a = b then s.pc.toNat + 4 else s.pc.toNat + 2) % 65536 := by
  simp only [State.skipIf_pc_toNat, beq_iff_eq]

/-- The skips on inequality (41_control_flow.md R144, R146). -/
theorem State.skipIf_ne_pc_toNat (s : State) (a b : Byte) :
    (s.skipIf (a != b)).pc.toNat = (if a = b then s.pc.toNat + 2 else s.pc.toNat + 4) % 65536 := by
  simp only [State.skipIf_pc_toNat, bne_iff_ne, ite_not]

theorem State.offsetTarget_toNat (s : State) (nnn : Addr12) :
    (s.offsetTarget nnn).toNat = nnn.toNat + (s.reg 0).toNat := by
  have hnnn := nnn.isLt
  have hreg := (s.reg 0).isLt
  simp only [State.offsetTarget, State.v0, State.regNat, BitVec.toNat_ofNat]
  omega

/-! ### The two outcomes of an instruction -/

/-- An instruction whose check fails raises the fault, which writes FAULT alone, and reports it. -/
theorem exec_and_status_of_check_some {s : State} {i : Instr} {r : Raise} (h : s.check i = some r) :
    exec i s = .next { s with fault := r.cause.code } ∧ s.execStatus i = .fault r :=
  ⟨exec_of_check_some h, State.execStatus_of_check_some h⟩

/-- The step of an instruction that completes: its effect, then the tick. -/
theorem step_of_completes {s : State} {i : Instr} (hf : s.fault = 0) (hpc : s.pc.toNat ≤ 4094)
    (hd : decodeWord s.fetchWord = some i) (hi : s.check i = none) (hw : waitsForKey i s = false) :
    step s = .next (s.effect i).tick := by
  rw [step_effect hf hpc hd hi, State.afterExecute_of_completes hw ((s.effect_fault i).trans hf)]

/-! ### A call and the return from it -/

theorem State.effect_call_pc_toNat (s : State) (nnn : Addr12) : (s.effect (.call nnn)).pc.toNat = nnn.toNat :=
  addrOperand_toNat nnn

theorem State.effect_call_fetchWord (s : State) (nnn : Addr12) :
    (s.effect (.call nnn)).fetchWord = wordOfBytes (s.byteAt nnn.toNat) (s.byteAt (nnn.toNat + 1)) := by
  rw [State.fetchWord, s.effect_call_pc_toNat]
  rfl

end Sys2Proof.Machine

namespace Sys2Proof.Proofs
open Sys2Proof.Machine

/-- Settles O29: the step of the `CALL` pushes PC + 2 and lands on the `RET`, whose step pops what was pushed. -/
theorem callThenReturnComesBackAfterTheCall : Obligations.CallThenReturnComesBackAfterTheCall := by
  intro s nnn hf hpc hsp hnnn hcall hret
  have hroom : s.sp.val ≠ 16 := by omega
  have hstep₁ : step s = .next (s.effect (.call nnn)).tick :=
    step_of_completes hf hpc hcall (s.pushCheck_eq_none.2 hroom) rfl
  have hpushed : (s.effect (.call nnn)).sp.val = s.sp.val + 1 := s.push_sp_val (s.pc + 2) hroom
  have hstep₂ : step (s.effect (.call nnn)).tick = .next ((s.effect (.call nnn)).tick.effect .ret).tick := by
    refine step_of_completes ((s.effect_fault _).trans hf) ?fetchable ?decodes ?nonempty rfl
    case fetchable => exact (s.effect_call_pc_toNat nnn).trans_le hnnn
    case decodes => exact (congrArg decodeWord (s.effect_call_fetchWord nnn)).trans hret
    case nonempty => exact (State.popCheck_eq_none _).2 (hpushed.trans_ne (Nat.succ_ne_zero _))
  refine ⟨_, ⟨_, hstep₁, _, hstep₂, rfl⟩, ?_, ?_, hf, fun _ => rfl, fun k hk hlive => ?_⟩
  · exact s.push_top (s.pc + 2) hroom
  · exact s.push_pop_sp (s.pc + 2)
  · exact s.effect_call_stack nnn hk hlive.ne

/-- Settles O27: the check tests SP, and the effect reads the slot below SP. -/
theorem retPopsTheReturnAddress : Obligations.RetPopsTheReturnAddress := by
  refine ⟨decodeWord_encodeWord .ret, fun s => ⟨fun hsp => ?returns, fun hsp => ?underflows⟩⟩
  case returns =>
    have hpop : (s.effect .ret).sp.val = s.sp.val - 1 := s.pop_sp_val hsp
    refine ⟨_, exec_of_check_none (s.popCheck_eq_none.2 hsp), hpop, ?_, rfl, s.effect_changesOnly .ret⟩
    rw [hpop]
    exact s.stack_getElem?_pred_sp
  case underflows => exact exec_and_status_of_check_some (i := .ret) (State.popCheck_of_empty hsp)

/-- Settles O28: the check tests SP, and the effect writes the slot at SP and no other. -/
theorem callPushesTheNextAddress : Obligations.CallPushesTheNextAddress := by
  refine fun nnn => ⟨decodeWord_encodeWord (.call nnn), fun s => ⟨fun hsp => ?calls, fun hsp => ?overflows⟩⟩
  case calls =>
    refine ⟨_, exec_of_check_none (s.pushCheck_eq_none.2 hsp), s.push_sp_val (s.pc + 2) hsp,
      s.effect_call_pc_toNat nnn, fun k hk => ?_, s.effect_changesOnly (.call nnn)⟩
    simp only [wordOf_toNat_add_two, eq_comm (a := k)]
    exact s.push_stack_getElem (s.pc + 2) k hk
  case overflows => exact exec_and_status_of_check_some (i := .call nnn) (State.pushCheck_of_full hsp)

/-- Settles O30: neither jump has a check, and nnn + V[0] is below 65536, so it does not wrap. -/
theorem jumpsGoToTheirTargets : Obligations.JumpsGoToTheirTargets := fun nnn =>
  ⟨decodeWord_encodeWord (.jp nnn), decodeWord_encodeWord (.jpV0 nnn), fun s =>
    ⟨⟨_, exec_of_check_none rfl, addrOperand_toNat nnn, s.effect_changesOnly (.jp nnn)⟩,
      ⟨_, exec_of_check_none rfl, s.offsetTarget_toNat nnn, s.effect_changesOnly (.jpV0 nnn)⟩⟩⟩

/-- Settles O31: neither skip has a check, and each writes PC alone. -/
theorem skipsCompareARegisterWithAnImmediate : Obligations.SkipsCompareARegisterWithAnImmediate := fun x kk =>
  ⟨decodeWord_eq_some_of_encodeWord (formatXK_eq_wordOf 0x3 x kk),
    decodeWord_eq_some_of_encodeWord (formatXK_eq_wordOf 0x4 x kk), fun s =>
    ⟨⟨_, exec_of_check_none rfl, s.skipIf_eq_pc_toNat _ _, s.effect_changesOnly (.seImm x kk)⟩,
      ⟨_, exec_of_check_none rfl, s.skipIf_ne_pc_toNat _ _, s.effect_changesOnly (.sneImm x kk)⟩⟩⟩

/-- Settles O32: as with an immediate; neither the effect nor the frame mentions the low nibble. -/
theorem skipsCompareTwoRegisters : Obligations.SkipsCompareTwoRegisters := fun x y low =>
  ⟨decodeWord_eq_some_of_encodeWord (formatXY_eq_wordOf 0x5 x y low.toNat),
    decodeWord_eq_some_of_encodeWord (formatXY_eq_wordOf 0x9 x y low.toNat), fun s =>
    ⟨⟨_, exec_of_check_none rfl, s.skipIf_eq_pc_toNat _ _, s.effect_changesOnly (.seReg x y low)⟩,
      ⟨_, exec_of_check_none rfl, s.skipIf_ne_pc_toNat _ _, s.effect_changesOnly (.sneReg x y low)⟩⟩⟩

end Sys2Proof.Proofs
end

section
/-! SUPPORT. Proofs of the statements about the arithmetic and logical instructions (spec 42_alu.md). Before them the words of
group 8, the register and the flag after a write, the flags and results as numbers, and from these what the five
instructions that compute a flag leave in V[x] and in VF. -/

namespace Sys2Proof

/-- The words of group 8 as the statements write them (30_encoding.md R95, R96). -/
theorem decodeWord_group8 {i : Instr} {x y : RegIdx} (low : Nat) (h : encodeWord i = formatXY 0x8 x y low) :
    decodeWord (wordOf (0x8000 + low + 256 * x.val + 16 * y.val)) = some i := by
  have hsum : 0x8 * 4096 + 256 * x.val + 16 * y.val + low = 0x8000 + low + 256 * x.val + 16 * y.val := by omega
  exact decodeWord_eq_some_of_encodeWord (h.trans ((formatXY_eq_wordOf 0x8 x y low).trans (congrArg wordOf hsum)))

end Sys2Proof

namespace Sys2Proof.Machine

/-! ### A register after a write of it -/

theorem State.reg_setReg_self (s : State) (x : RegIdx) (b : Byte) : (s.setReg x b).reg x = b :=
  (s.reg_setReg x x b).trans (if_pos rfl)

/-- The result is written last, so it remains in V[x] even when x is 15 (42_alu.md R182). -/
theorem State.reg_setFlagThenReg_self (s : State) (c : Bool) (x : RegIdx) (b : Byte) :
    (s.setFlagThenReg c x b).reg x = b := (s.setFlag c).reg_setReg_self x b

theorem State.vf_setFlagThenReg (s : State) (c : Bool) {x : RegIdx} (b : Byte) (hx : x ≠ 15) :
    (s.setFlagThenReg c x b).vf = flagByte c :=
  (s.reg_setFlagThenReg c x 15 b).trans ((if_neg hx.symm).trans (if_pos rfl))

/-! ### Flags and results as numbers -/

theorem flagByte_decide_toNat (p : Prop) [Decidable p] : (flagByte (decide p)).toNat = if p then 1 else 0 := by
  by_cases h : p <;> simp [flagByte, h]

theorem flagByte_shrFlag_toNat (b : Byte) : (flagByte (shrFlag b)).toNat = b.toNat % 2 := by
  obtain h | h := Nat.mod_two_eq_zero_or_one b.toNat <;> simp [flagByte, shrFlag, BitVec.getLsbD, Nat.testBit_zero, h]

theorem flagByte_shlFlag_toNat (b : Byte) : (flagByte (shlFlag b)).toNat = b.toNat / 128 := by
  have hbit : shlFlag b = decide (128 ≤ b.toNat) := BitVec.msb_eq_decide b
  have hb := b.isLt
  rw [hbit, flagByte_decide_toNat]
  split <;> omega

/-- The subtraction of 40_step.md R130 is the integers' difference mod 256. -/
theorem subMod_toNat_eq_emod (a b : Byte) :
    ((subMod a.toNat b.toNat).toNat : Int) = (a.toNat - b.toNat : Int) % 256 := by
  have hb := b.isLt
  simp only [subMod, BitVec.toNat_ofNat]
  omega

/-! ### What the flag-setting instructions leave in V[x] and in VF -/

theorem State.effect_addReg_toNat (s : State) (x y : RegIdx) :
    ((s.effect (.addReg x y)).reg x).toNat = ((s.reg x).toNat + (s.reg y).toNat) % 256 :=
  congrArg BitVec.toNat (s.reg_setFlagThenReg_self _ x _)

theorem State.effect_sub_reg (s : State) (x y : RegIdx) :
    (s.effect (.sub x y)).reg x = subMod (s.reg x).toNat (s.reg y).toNat := s.reg_setFlagThenReg_self _ x _

theorem State.effect_subn_reg (s : State) (x y : RegIdx) :
    (s.effect (.subn x y)).reg x = subMod (s.reg y).toNat (s.reg x).toNat := s.reg_setFlagThenReg_self _ x _

theorem State.effect_shr_toNat (s : State) (x y : RegIdx) :
    ((s.effect (.shr x y)).reg x).toNat = (s.reg x).toNat / 2 := by
  have hreg : (s.effect (.shr x y)).reg x = byteOf ((s.reg x).toNat / 2) := s.reg_setFlagThenReg_self _ x _
  rw [hreg, BitVec.toNat_ofNat, Nat.mod_eq_of_lt]
  exact (Nat.div_le_self _ 2).trans_lt (s.reg x).isLt

theorem State.effect_shl_toNat (s : State) (x y : RegIdx) :
    ((s.effect (.shl x y)).reg x).toNat = 2 * (s.reg x).toNat % 256 :=
  congrArg BitVec.toNat (s.reg_setFlagThenReg_self _ x _)

section
variable (s : State) {x : RegIdx} (y : RegIdx) (hx : x ≠ 15)
include hx

theorem State.effect_addReg_vf : (s.effect (.addReg x y)).vf.toNat =
    if (s.reg x).toNat + (s.reg y).toNat > 255 then 1 else 0 :=
  (congrArg BitVec.toNat (s.vf_setFlagThenReg _ _ hx)).trans (flagByte_decide_toNat _)

theorem State.effect_sub_vf : (s.effect (.sub x y)).vf.toNat = if (s.reg x).toNat > (s.reg y).toNat then 1 else 0 :=
  (congrArg BitVec.toNat (s.vf_setFlagThenReg _ _ hx)).trans (flagByte_decide_toNat _)

theorem State.effect_subn_vf : (s.effect (.subn x y)).vf.toNat = if (s.reg y).toNat > (s.reg x).toNat then 1 else 0 :=
  (congrArg BitVec.toNat (s.vf_setFlagThenReg _ _ hx)).trans (flagByte_decide_toNat _)

theorem State.effect_shr_vf : (s.effect (.shr x y)).vf.toNat = (s.reg x).toNat % 2 :=
  (congrArg BitVec.toNat (s.vf_setFlagThenReg _ _ hx)).trans (flagByte_shrFlag_toNat _)

theorem State.effect_shl_vf : (s.effect (.shl x y)).vf.toNat = (s.reg x).toNat / 128 :=
  (congrArg BitVec.toNat (s.vf_setFlagThenReg _ _ hx)).trans (flagByte_shlFlag_toNat _)

end

/-! ### What `RND` leaves in V[x] -/

theorem State.effect_rnd_reg (s : State) (x : RegIdx) (kk : Byte) :
    (s.effect (.rnd x kk)).reg x = Config.randomByte s.draws &&& kk := s.reg_setReg_self x _

/-- A masked byte has no bit outside the mask. -/
theorem and_and_not_mask (b kk : Byte) : b &&& kk &&& ~~~kk = 0 := by
  rw [BitVec.and_assoc, BitVec.and_not_self]
  exact BitVec.and_zero

end Sys2Proof.Machine

namespace Sys2Proof.Proofs
open Sys2Proof.Machine

/-- Settles O35: the flag is written from the old values, and the sum after it. -/
theorem addRecordsTheCarry : Obligations.AddRecordsTheCarry := fun x y =>
  ⟨decodeWord_group8 0x4 rfl, fun s =>
    ⟨_, exec_of_check_none rfl, s.effect_addReg_toNat x y, s.effect_addReg_vf y, rfl, s.effect_changesOnly (.addReg x y)⟩⟩

/-- Settles O36: `subMod` is the difference mod 256, and both flags are strict comparisons. -/
theorem subtractionsFlagAStrictlyGreaterMinuend : Obligations.SubtractionsFlagAStrictlyGreaterMinuend := by
  refine fun x y => ⟨decodeWord_group8 0x5 rfl, decodeWord_group8 0x7 rfl, fun s => ⟨?sub, ?subn⟩⟩
  case sub =>
    refine ⟨_, exec_of_check_none rfl, ?_, s.effect_sub_vf y, rfl, s.effect_changesOnly (.sub x y)⟩
    rw [s.effect_sub_reg, subMod_toNat_eq_emod]
  case subn =>
    refine ⟨_, exec_of_check_none rfl, ?_, s.effect_subn_vf y, rfl, s.effect_changesOnly (.subn x y)⟩
    rw [s.effect_subn_reg, subMod_toNat_eq_emod]

/-- Settles O37: halving and doubling move bit 0 and bit 7 out; neither the effect nor the frame mentions V[y]. -/
theorem shiftsMoveOneBitIntoTheFlag : Obligations.ShiftsMoveOneBitIntoTheFlag := fun x y =>
  ⟨decodeWord_group8 0x6 rfl, decodeWord_group8 0xE rfl, fun s =>
    ⟨⟨_, exec_of_check_none rfl, s.effect_shr_toNat x y, s.effect_shr_vf y, rfl, s.effect_changesOnly (.shr x y)⟩,
      ⟨_, exec_of_check_none rfl, s.effect_shl_toNat x y, s.effect_shl_vf y, rfl, s.effect_changesOnly (.shl x y)⟩⟩⟩

/-- Settles O38: what each of the five leaves in V[x], read at x = 15. -/
theorem resultRemainsWhenTheDestinationIsTheFlagRegister :
    Obligations.ResultRemainsWhenTheDestinationIsTheFlagRegister := fun y s =>
  ⟨⟨_, exec_of_check_none rfl, s.effect_addReg_toNat 15 y⟩,
    ⟨_, exec_of_check_none rfl, congrArg BitVec.toNat (s.effect_sub_reg 15 y)⟩,
    ⟨_, exec_of_check_none rfl, s.effect_shr_toNat 15 y⟩,
    ⟨_, exec_of_check_none rfl, congrArg BitVec.toNat (s.effect_subn_reg 15 y)⟩,
    ⟨_, exec_of_check_none rfl, s.effect_shl_toNat 15 y⟩⟩

/-- Settles O39: V[x] is a masked byte, whatever byte was drawn. -/
theorem randomByteIsMasked : Obligations.RandomByteIsMasked := by
  refine fun x kk => ⟨decodeWord_eq_some_of_encodeWord (formatXK_eq_wordOf 0xC x kk), fun s =>
    ⟨_, exec_of_check_none rfl, s.effect_rnd_reg x kk, ?_, rfl, rfl, s.effect_changesOnly (.rnd x kk)⟩⟩
  rw [s.effect_rnd_reg, and_and_not_mask]

/-- Settles O33: each writes V[x] alone, and the sum is taken mod 256 by the width of a byte. -/
theorem immediateLoadAndAddWriteOnlyTheirRegister : Obligations.ImmediateLoadAndAddWriteOnlyTheirRegister := fun x kk =>
  ⟨decodeWord_eq_some_of_encodeWord (formatXK_eq_wordOf 0x6 x kk),
    decodeWord_eq_some_of_encodeWord (formatXK_eq_wordOf 0x7 x kk), fun s =>
    ⟨⟨_, exec_of_check_none rfl, s.reg_setReg_self x kk, rfl, s.effect_changesOnly (.ldImm x kk)⟩,
      ⟨_, exec_of_check_none rfl, congrArg BitVec.toNat (s.reg_setReg_self x _), rfl,
        s.effect_changesOnly (.addImm x kk)⟩⟩⟩

/-- Settles O34: each writes V[x] alone, a copy or the word operation, which acts bit by bit. -/
theorem copyAndLogicLeaveTheFlagAlone : Obligations.CopyAndLogicLeaveTheFlagAlone := by
  refine fun x y => ⟨decodeWord_group8 0x0 rfl, decodeWord_group8 0x1 rfl, decodeWord_group8 0x2 rfl,
    decodeWord_group8 0x3 rfl, fun s => ⟨?copy, ?or, ?and, ?xor⟩⟩
  case copy => exact ⟨_, exec_of_check_none rfl, s.reg_setReg_self x _, rfl, s.effect_changesOnly (.ldReg x y)⟩
  case or =>
    refine ⟨_, exec_of_check_none rfl, rfl, s.effect_changesOnly (.orReg x y), fun k _ => ?_⟩
    exact (congrArg (·.getLsbD k) (s.reg_setReg_self x _)).trans BitVec.getLsbD_or
  case and =>
    refine ⟨_, exec_of_check_none rfl, rfl, s.effect_changesOnly (.andReg x y), fun k _ => ?_⟩
    exact (congrArg (·.getLsbD k) (s.reg_setReg_self x _)).trans BitVec.getLsbD_and
  case xor =>
    refine ⟨_, exec_of_check_none rfl, rfl, s.effect_changesOnly (.xorReg x y), fun k _ => ?_⟩
    exact (congrArg (·.getLsbD k) (s.reg_setReg_self x _)).trans BitVec.getLsbD_xor

end Sys2Proof.Proofs
end

section
/-! SUPPORT. Proofs of the statements about the index register and memory (spec 43_index_memory.md). Before them the words of
group F, what each instruction leaves in I, in VF, in memory and in the registers, and the two outcomes of an instruction
whose highest address is checked. -/

namespace Sys2Proof

/-- The words of group F as the statements write them: the selector is the low byte (30_encoding.md R92, R95). -/
theorem decodeWord_groupF {i : Instr} {x : RegIdx} (kk : Byte) (h : encodeWord i = formatXK 0xF x kk) :
    decodeWord (wordOf (0xF000 + kk.toNat + 256 * x.val)) = some i := by
  have hsum : 0xF * 4096 + 256 * x.val + kk.toNat = 0xF000 + kk.toNat + 256 * x.val := Nat.add_right_comm ..
  exact decodeWord_eq_some_of_encodeWord (h.trans ((formatXK_eq_wordOf 0xF x kk).trans (congrArg wordOf hsum)))

theorem byteOf_toNat_of_lt {n : Nat} (h : n < 256) : (byteOf n).toNat = n :=
  (BitVec.toNat_ofNat n 8).trans (Nat.mod_eq_of_lt h)

end Sys2Proof

namespace Sys2Proof.Machine

/-! ### What the address instructions leave in I and in VF -/

theorem State.effect_addI_index (s : State) (x : RegIdx) :
    (s.effect (.addI x)).i.toNat = (s.i.toNat + (s.reg x).toNat) % 65536 := BitVec.toNat_ofNat ..

theorem State.effect_addI_vf (s : State) (x : RegIdx) :
    (s.effect (.addI x)).vf.toNat = if s.i.toNat + (s.reg x).toNat > 0x0FFF then 1 else 0 := by
  have hvf : (s.effect (.addI x)).vf = flagByte (indexFlag (s.indexSum x)) :=
    (s.reg_setFlag (indexFlag (s.indexSum x)) 15).trans (if_pos rfl)
  rw [hvf]
  exact flagByte_decide_toNat _

/-- Five times a byte does not wrap. -/
theorem State.effect_ldF_index (s : State) (x : RegIdx) :
    (s.effect (.ldF x)).i.toNat = Config.glyphBase + 5 * (s.reg x).toNat := by
  have hreg := (s.reg x).isLt
  refine (BitVec.toNat_ofNat (s.glyphAddr x) 16).trans (Nat.mod_eq_of_lt ?_)
  simp only [State.glyphAddr, State.regNat, Config.glyphBase, Config.glyphLen]
  omega

/-! ### What the memory instructions leave in memory and in the registers -/

theorem State.effect_ldB_byteAt_digit (s : State) (x : RegIdx) {k : Nat} (hk : k < 3) :
    (s.effect (.ldB x)).byteAt (s.i.toNat + k) = (bcdDigits (s.reg x).toNat).getD k 0 :=
  s.storeBytes_byteAt_inside s.i.toNat (bcdDigits (s.regNat x)) hk

section
variable (s : State) (x : RegIdx)

theorem State.effect_ldB_hundreds : ((s.effect (.ldB x)).byteAt s.i.toNat).toNat = (s.reg x).toNat / 100 := by
  have hreg := (s.reg x).isLt
  exact (congrArg BitVec.toNat (s.effect_ldB_byteAt_digit x (k := 0) (by decide))).trans (byteOf_toNat_of_lt (by omega))

theorem State.effect_ldB_tens :
    ((s.effect (.ldB x)).byteAt (s.i.toNat + 1)).toNat = (s.reg x).toNat / 10 % 10 :=
  (congrArg BitVec.toNat (s.effect_ldB_byteAt_digit x (by decide))).trans (byteOf_toNat_of_lt (by omega))

theorem State.effect_ldB_units : ((s.effect (.ldB x)).byteAt (s.i.toNat + 2)).toNat = (s.reg x).toNat % 10 :=
  (congrArg BitVec.toNat (s.effect_ldB_byteAt_digit x (by decide))).trans (byteOf_toNat_of_lt (by omega))

end

theorem State.effect_load_reg (s : State) (x k : RegIdx) :
    (s.effect (.load x)).reg k = if k.val ≤ x.val then s.byteAt (s.i.toNat + k.val) else s.reg k :=
  (s.reg_fillRegs (x.val + 1) k).trans (if_congr Nat.lt_succ_iff rfl rfl)

/-! ### The two outcomes of an instruction that checks its highest address -/

theorem exec_of_span_fits {s : State} {i : Instr} {n : Nat} (hi : s.check i = s.spanCheck n)
    (h : s.i.toNat + n ≤ 4095) : exec i s = .next (s.effect i) :=
  exec_of_check_none (hi.trans ((s.spanCheck_eq_none n).2 h))

/-- MemIndexOutOfBounds, code 4 (60_exceptions.md R301), is raised before any write (43_index_memory.md R206). -/
theorem exec_and_status_of_span_past_end {s : State} {i : Instr} {n : Nat} (hi : s.check i = s.spanCheck n)
    (h : 4095 < s.i.toNat + n) :
    exec i s = .next { s with fault := 4 } ∧ s.execStatus i = .fault ⟨.memIndexOutOfBounds, s.i.toNat + n⟩ :=
  exec_and_status_of_check_some (hi.trans (s.spanCheck_of_lt n h))

end Sys2Proof.Machine

namespace Sys2Proof.Proofs
open Sys2Proof.Machine

/-- Settles O41: the flag is written from the exact sum, and I after it; V[x] is read before both. -/
theorem addToIndexFlagsASumPastTheBound : Obligations.AddToIndexFlagsASumPastTheBound := fun x =>
  ⟨decodeWord_groupF 0x1E rfl, fun s =>
    ⟨_, exec_of_check_none rfl, s.effect_addI_index x, s.effect_addI_vf x, rfl, s.effect_changesOnly (.addI x)⟩⟩

/-- Settles O43: the check is of I + 2, and the effect stores the three digits and no other byte. -/
theorem bcdStoresThreeDigits : Obligations.BcdStoresThreeDigits := by
  refine fun x => ⟨decodeWord_groupF 0x33 rfl, fun s => ⟨fun hfits => ?stores, exec_and_status_of_span_past_end rfl⟩⟩
  exact ⟨_, exec_of_span_fits rfl hfits, s.effect_ldB_hundreds x, s.effect_ldB_tens x, s.effect_ldB_units x,
    fun _ => s.effect_ldB_byteAt x, rfl, s.effect_changesOnly (.ldB x)⟩

/-- Settles O44: the check is of I + x, and the effect stores V[0..x] and no other byte. -/
theorem dumpStoresRegistersZeroToX : Obligations.DumpStoresRegistersZeroToX := by
  refine fun x => ⟨decodeWord_groupF 0x55 rfl, fun s => ⟨fun hfits => ?stores, exec_and_status_of_span_past_end rfl⟩⟩
  exact ⟨_, exec_of_span_fits rfl hfits, s.effect_dump_byteAt_reg x, fun _ => s.effect_dump_byteAt x, rfl,
    s.effect_changesOnly (.dump x)⟩

/-- Settles O45: the check is of I + x, and the effect fills V[0..x] and no other register. -/
theorem loadFillsRegistersZeroToX : Obligations.LoadFillsRegistersZeroToX := by
  refine fun x => ⟨decodeWord_groupF 0x65 rfl, fun s => ⟨fun hfits => ?fills, exec_and_status_of_span_past_end rfl⟩⟩
  exact ⟨_, exec_of_span_fits rfl hfits, s.effect_load_reg x, rfl, s.effect_changesOnly (.load x)⟩

/-- Settles O46: both checks are of the same address, so both pass, and the load reads the bytes the dump wrote. -/
theorem loadAfterDumpRestoresTheRegisters : Obligations.LoadAfterDumpRestoresTheRegisters := by
  intro x s t u w hfits hdump hmem hindex hload k hk
  rw [exec_of_span_fits (i := .dump x) rfl hfits] at hdump
  rw [exec_of_span_fits (i := .load x) rfl (hindex ▸ hfits)] at hload
  cases hdump
  cases hload
  calc (u.effect (.load x)).reg k
      = u.byteAt (u.i.toNat + k.val) := (u.effect_load_reg x k).trans (if_pos hk)
    _ = (s.effect (.dump x)).byteAt (s.i.toNat + k.val) := by rw [State.byteAt, hmem, hindex, State.byteAt]
    _ = s.reg k := s.effect_dump_byteAt_reg x k hk

/-- Settles O40: the 12 bits of nnn fit in I. -/
theorem loadIndexSetsTheAddress : Obligations.LoadIndexSetsTheAddress := fun nnn =>
  ⟨decodeWord_encodeWord (.ldI nnn), fun s =>
    ⟨_, exec_of_check_none rfl, addrOperand_toNat nnn, rfl, s.effect_changesOnly (.ldI nnn)⟩⟩

/-- Settles O42: the whole register is multiplied by five. -/
theorem glyphAddressIsFiveTimesTheRegister : Obligations.GlyphAddressIsFiveTimesTheRegister := fun x =>
  ⟨decodeWord_groupF 0x29 rfl, rfl, fun s =>
    ⟨_, exec_of_check_none rfl, s.effect_ldF_index x, rfl, s.effect_changesOnly (.ldF x)⟩⟩

end Sys2Proof.Proofs
end

section
/-! SUPPORT. Proofs of the statements about the framebuffer (spec 44_display.md). Before them what a draw leaves in each cell
and in VF, said through the cells its sprite hits. -/

namespace Sys2Proof.Machine

/-! ### The cells a sprite hits -/

/-- Some cell the sprite hits is 1: the collision of R231, as the statements write it. -/
def spriteCollides (s : State) (a b n : Nat) : Prop := ∃ k, k < 2048 ∧ spriteHits s a b n k ∧ s.pixel k = true

theorem spriteHits_lt {s : State} {a b n k : Nat} (h : spriteHits s a b n k) : k < 2048 := by
  obtain ⟨row, col, -, -, -, rfl⟩ := h
  exact pixelIndex_lt (a + col) (b + row)

section
variable (s : State) (x y : RegIdx) (n : Fin 16)

/-- The model draws from the canvas with no collision yet (`drawSprite_spec`). -/
theorem State.sprite_collision_iff :
    (s.sprite x y n).2 = true ↔ spriteCollides s (s.reg x).toNat (s.reg y).toNat n.val := by
  refine (drawSprite_spec s.mem s.i.toNat (s.regNat x) (s.regNat y) n.val (by omega) s.fb).2.trans
    (exists_congr fun k => ?_)
  rw [State.mem_spriteCells_iff]
  exact ⟨fun ⟨hhit, hset⟩ => ⟨spriteHits_lt hhit, hhit, hset⟩, fun ⟨_, hhit, hset⟩ => ⟨hhit, hset⟩⟩

/-! ### What a draw leaves -/

theorem State.effect_drw_pixel_of_hit {k : Nat} (h : spriteHits s (s.reg x).toNat (s.reg y).toNat n.val k) :
    (s.effect (.drw x y n)).pixel k = !s.pixel k := by
  have hcell := (drawSprite_spec s.mem s.i.toNat (s.regNat x) (s.regNat y) n.val (by omega) s.fb).1 k
  exact hcell.trans (if_pos ((s.mem_spriteCells_iff _ _ _ k).2 h))

theorem State.effect_drw_vf : (s.effect (.drw x y n)).vf = flagByte (s.sprite x y n).2 :=
  (State.reg_setFlag _ (s.sprite x y n).2 15).trans (if_pos rfl)

theorem State.effect_drw_vf_of_collision (h : spriteCollides s (s.reg x).toNat (s.reg y).toNat n.val) :
    (s.effect (.drw x y n)).vf = 1 := by
  rw [State.effect_drw_vf, (s.sprite_collision_iff x y n).2 h]
  rfl

theorem State.effect_drw_vf_of_no_collision (h : ¬ spriteCollides s (s.reg x).toNat (s.reg y).toNat n.val) :
    (s.effect (.drw x y n)).vf = 0 := by
  rw [State.effect_drw_vf, Bool.eq_false_of_not_eq_true (mt (s.sprite_collision_iff x y n).1 h)]
  rfl

theorem State.exec_drw_of_fits (h : n.val = 0 ∨ s.i.toNat + n.val - 1 ≤ 4095) :
    exec (.drw x y n) s = .next (s.effect (.drw x y n)) :=
  exec_of_check_none (i := .drw x y n) ((s.drawCheck_eq_none n.val).2 h)

/-- A draw writes neither I nor memory, so a second draw finds the same sprite. -/
theorem State.effect_drw_spriteHits (a b m k : Nat) :
    spriteHits (s.effect (.drw x y n)) a b m k ↔ spriteHits s a b m k := Iff.rfl

end

end Sys2Proof.Machine

namespace Sys2Proof.Proofs
open Sys2Proof.Machine

/-- Settles O49: the check passes exactly in the first clause's case, and the effect inverts the cells hit and no other. -/
theorem drawInvertsTheCellsTheSpriteHits : Obligations.DrawInvertsTheCellsTheSpriteHits := by
  refine fun x y n => ⟨decodeWord_eq_some_of_encodeWord (i := .drw x y n) (formatXY_eq_wordOf 0xD x y n.val), fun s =>
    ⟨fun hfits => ?draws, fun hrows hpast => ?faults⟩⟩
  case draws =>
    exact ⟨_, s.exec_drw_of_fits x y n hfits,
      fun k _ => ⟨s.effect_drw_pixel_of_hit x y n, s.effect_drw_pixel x y n⟩,
      s.effect_drw_vf_of_collision x y n, s.effect_drw_vf_of_no_collision x y n, rfl, rfl,
      s.effect_changesOnly (.drw x y n)⟩
  case faults => exact exec_and_status_of_check_some (i := .drw x y n) (s.drawCheck_of_lt n.val hrows hpast)

/-- Settles O50: both draws hit the same cells, so each is inverted twice; a cell hit that the first draw found 0 is 1 for
the second. -/
theorem drawingTwiceRestoresTheScreen : Obligations.DrawingTwiceRestoresTheScreen := by
  intro x y n s t u hfits hfirst hx hy hsecond
  have ht : t = s.effect (.drw x y n) :=
    Host.Outcome.next.inj (hfirst.symm.trans (s.exec_drw_of_fits x y n hfits))
  have hu : u = t.effect (.drw x y n) :=
    Host.Outcome.next.inj (hsecond.symm.trans (t.exec_drw_of_fits x y n (ht ▸ hfits)))
  have hsame (k : Nat) :
      spriteHits t (t.reg x).toNat (t.reg y).toNat n.val k ↔ spriteHits s (s.reg x).toNat (s.reg y).toNat n.val k := by
    rw [hx, hy, ht, State.effect_drw_spriteHits]
  refine ⟨fun k _ => ?restores, fun hclear ⟨k, hk, hhit⟩ => ?collides⟩
  case restores =>
    by_cases hhit : spriteHits s (s.reg x).toNat (s.reg y).toNat n.val k
    · rw [hu, t.effect_drw_pixel_of_hit x y n ((hsame k).2 hhit), ht, s.effect_drw_pixel_of_hit x y n hhit, Bool.not_not]
    · rw [hu, t.effect_drw_pixel x y n (mt (hsame k).1 hhit), ht, s.effect_drw_pixel x y n hhit]
  case collides =>
    have hzero : s.pixel k = false := by
      refine Bool.eq_false_of_not_eq_true fun hset => ?_
      have hone : t.vf = 1 := ht ▸ s.effect_drw_vf_of_collision x y n ⟨k, hk, hhit, hset⟩
      exact absurd (hclear.symm.trans hone) (by decide)
    have hlit : t.pixel k = true := by rw [ht, s.effect_drw_pixel_of_hit x y n hhit, hzero, Bool.not_false]
    rw [hu, t.effect_drw_vf_of_collision x y n ⟨k, hk, (hsame k).2 hhit, hlit⟩]

/-- Settles O48: every cell of the blank screen is 0, whatever the screen was before. -/
theorem clearScreenBlanksEveryCell : Obligations.ClearScreenBlanksEveryCell :=
  ⟨decodeWord_encodeWord .cls, fun s =>
    ⟨_, exec_of_check_none rfl, fun k _ => Screen.cell_blank k, rfl, rfl, s.effect_changesOnly .cls⟩⟩

end Sys2Proof.Proofs
end

section
/-! SUPPORT. Proofs of the statements about the input latch and the timers (spec 45_keypad_timers.md). Before them the words
with a register and a byte, the PC of a skip on a key, and the two outcomes of `LD Vx, K`. -/

namespace Sys2Proof

/-- The words with a register and a byte as the statements write them, the group digit and the byte as one number
(30_encoding.md R92, R95). -/
theorem decodeWord_of_formatXK {i : Instr} {x : RegIdx} (op : Nat) (kk : Byte) (h : encodeWord i = formatXK op x kk) :
    decodeWord (wordOf (op * 4096 + kk.toNat + 256 * x.val)) = some i := by
  refine decodeWord_eq_some_of_encodeWord (h.trans ((formatXK_eq_wordOf op x kk).trans (congrArg wordOf ?_)))
  exact Nat.add_right_comm ..

end Sys2Proof

namespace Sys2Proof.Machine

/-! ### Skips on a key -/

theorem State.keyCheck_of_gt {s : State} {x : RegIdx} (h : 15 < (s.reg x).toNat) :
    s.keyCheck x = some ⟨.keyIndexOutOfRange, (s.reg x).toNat⟩ := if_pos h

section
variable {s : State} {x : RegIdx} (h : (s.reg x).toNat < 16)
include h

theorem State.keyCheck_of_lt : s.keyCheck x = none := (s.keyCheck_eq_none x).2 (Nat.le_of_lt_succ h)

theorem State.effect_skp_pc :
    (s.effect (.skp x)).pc = if s.key[(s.reg x).toNat] = true then s.pc + 4 else s.pc + 2 := by
  rw [← s.keyDown_eq ⟨_, h⟩]
  rfl

theorem State.effect_sknp_pc :
    (s.effect (.sknp x)).pc = if s.key[(s.reg x).toNat] = false then s.pc + 4 else s.pc + 2 := by
  rw [← s.keyDown_eq ⟨_, h⟩]
  exact if_congr (iff_of_eq (Bool.not_eq_true' _)) rfl rfl

end

/-! ### The two outcomes of `LD Vx, K` -/

/-- Key k is pressed and no lower key is: the premise of R253 as the statement writes it. -/
theorem State.lowestKey_of_pressed {s : State} {k : KeyIdx} (hk : s.key[k.val] = true)
    (hlower : ∀ j : KeyIdx, j.val < k.val → s.key[j.val] = false) : s.lowestKey = some k.val :=
  (s.lowestKey_eq_some k.val).2 ⟨k.isLt, hk, fun j hj => hlower ⟨j, hj.trans k.isLt⟩ hj⟩

theorem State.effect_ldVxK_of_lowestKey {s : State} {k : Nat} (h : s.lowestKey = some k) (x : RegIdx) :
    s.effect (.ldVxK x) = (s.setReg x (byteOf k)).advance := by
  show s.takeKey x = _
  rw [State.takeKey, h]

theorem State.effect_ldVxK_reg {s : State} {k : KeyIdx} (h : s.lowestKey = some k.val) (x : RegIdx) :
    ((s.effect (.ldVxK x)).reg x).toNat = k.val := by
  rw [State.effect_ldVxK_of_lowestKey h]
  exact (congrArg BitVec.toNat (s.reg_setReg_self x _)).trans (byteOf_toNat_of_lt (by omega))

theorem State.effect_ldVxK_pc {s : State} {k : Nat} (h : s.lowestKey = some k) (x : RegIdx) :
    (s.effect (.ldVxK x)).pc = s.pc + 2 := by
  rw [State.effect_ldVxK_of_lowestKey h]
  rfl

theorem waitsForKey_ldVxK_of_some {s : State} {k : Nat} (h : s.lowestKey = some k) (x : RegIdx) :
    waitsForKey (.ldVxK x) s = false := by
  rw [waitsForKey, h, Option.isNone_some]

theorem waitsForKey_ldVxK_of_none {s : State} (h : s.lowestKey = none) (x : RegIdx) :
    waitsForKey (.ldVxK x) s = true :=
  (waitsForKey_iff _ s).2 ⟨⟨x, rfl⟩, h⟩

/-- A step that waits for a key is the identity on the whole state (R253). -/
theorem step_of_waitsForKey {s : State} {i : Instr} (hf : s.fault = 0) (hpc : s.pc.toNat ≤ 4094)
    (hd : decodeWord s.fetchWord = some i) (hi : s.check i = none) (hw : waitsForKey i s = true) : step s = .next s := by
  rw [step_effect hf hpc hd hi, State.afterExecute_of_waitsForKey hw, State.effect_of_waitsForKey hw]

end Sys2Proof.Machine

namespace Sys2Proof.Proofs
open Sys2Proof.Machine

/-- Settles O51: the check tests the whole of V[x], and a skip that passes it reads the key of that index. -/
theorem keySkipsTestTheLatch : Obligations.KeySkipsTestTheLatch := by
  refine fun x => ⟨decodeWord_of_formatXK 0xE 0x9E rfl, decodeWord_of_formatXK 0xE 0xA1 rfl, fun s =>
    ⟨fun hkey => ?skips, fun hpast => ?faults⟩⟩
  case skips =>
    have hcheck := State.keyCheck_of_lt hkey
    exact ⟨⟨_, exec_of_check_none (i := .skp x) hcheck, State.effect_skp_pc hkey, s.effect_changesOnly (.skp x)⟩,
      ⟨_, exec_of_check_none (i := .sknp x) hcheck, State.effect_sknp_pc hkey, s.effect_changesOnly (.sknp x)⟩⟩
  case faults =>
    have hcheck := State.keyCheck_of_gt hpast
    obtain ⟨hexec, hstatus⟩ := exec_and_status_of_check_some (i := .skp x) hcheck
    obtain ⟨hexec', hstatus'⟩ := exec_and_status_of_check_some (i := .sknp x) hcheck
    exact ⟨hexec, hexec', hstatus, hstatus'⟩

/-- Settles O52: none of the three has a check or waits, so the step is the effect and then the tick of both timers. -/
theorem timerMovesCopyTheValueAndThenTick : Obligations.TimerMovesCopyTheValueAndThenTick := by
  refine fun x => ⟨decodeWord_groupF 0x07 rfl, decodeWord_groupF 0x15 rfl, decodeWord_groupF 0x18 rfl, fun s =>
    ⟨?fromDelay, ?toDelay, ?toSound, fun hf hpc u hu => ?step⟩⟩
  case fromDelay => exact ⟨_, exec_of_check_none rfl, s.reg_setReg_self x s.dt, rfl, s.effect_changesOnly (.ldVxDt x)⟩
  case toDelay => exact ⟨_, exec_of_check_none rfl, rfl, rfl, s.effect_changesOnly (.ldDtVx x)⟩
  case toSound => exact ⟨_, exec_of_check_none rfl, rfl, rfl, s.effect_changesOnly (.ldStVx x)⟩
  case step =>
    have hticked {i : Instr} (hi : s.check i = none) (hw : waitsForKey i s = false)
        (hd : decodeWord s.fetchWord = some i) : u = (s.effect i).tick :=
      Host.Outcome.next.inj (hu.symm.trans (step_of_completes hf hpc hd hi hw))
    refine ⟨fun hd => ?_, fun hd => ?_, fun hd => ?_⟩
    · rw [hticked rfl rfl hd]
      exact ⟨s.reg_setReg_self x s.dt, timerDec_toNat s.dt, timerDec_toNat s.st⟩
    · rw [hticked rfl rfl hd]
      exact ⟨timerDec_toNat (s.reg x), timerDec_toNat s.st⟩
    · rw [hticked rfl rfl hd]
      exact ⟨timerDec_toNat (s.reg x), timerDec_toNat s.dt⟩

/-- Settles O53: the latch's lowest pressed key decides between a completed step and a key wait, which is the identity. -/
theorem keyWaitStoresTheLowestPressedKey : Obligations.KeyWaitStoresTheLowestPressedKey := by
  refine fun x => ⟨decodeWord_groupF 0x0A rfl, fun s => ⟨fun k hk hlower => ?stores, fun hnone => ?waits⟩⟩
  case stores =>
    have hlowest := State.lowestKey_of_pressed hk hlower
    have hw := waitsForKey_ldVxK_of_some hlowest x
    have hreg := State.effect_ldVxK_reg hlowest x
    have hpc' := State.effect_ldVxK_pc hlowest x
    refine ⟨⟨_, exec_of_check_none rfl, hreg, hpc', s.effect_changesOnly (.ldVxK x)⟩, ?status, fun hf hpc hd => ?step⟩
    case status => rw [State.execStatus_of_check_none rfl, hw, if_neg Bool.false_ne_true]
    case step =>
      refine ⟨_, step_of_completes hf hpc hd rfl hw, hreg, hpc', ?_, ?_⟩
      · rw [State.tick_dt, timerDec_toNat, State.effect_dt_of_ne (by simp)]
      · rw [State.tick_st, timerDec_toNat, State.effect_st_of_ne (by simp)]
  case waits =>
    have hw := waitsForKey_ldVxK_of_none (s.lowestKey_eq_none.2 hnone) x
    refine ⟨?exec, ?status, fun hf hpc hd => step_of_waitsForKey hf hpc hd rfl hw⟩
    case exec => rw [exec_of_check_none rfl, State.effect_of_waitsForKey hw]
    case status => rw [State.execStatus_of_check_none rfl, hw, if_pos rfl]

end Sys2Proof.Proofs
end

section
/-! SUPPORT. Proofs of the statements about faults and the host's transactions (spec 60_exceptions.md). Before them when each
check raises a fault and with which information, the step that reports one, and the two outcomes of a load. -/

namespace Sys2Proof.Machine

/-! ### The table of faults (R301) -/

section
variable (s : State) (r : Raise)

theorem State.pushCheck_eq_some : s.pushCheck = some r ↔ s.sp.val = 16 ∧ r = ⟨.stackOverflow, s.pc.toNat⟩ := by
  simp [State.pushCheck, eq_comm]

theorem State.popCheck_eq_some : s.popCheck = some r ↔ s.sp.val = 0 ∧ r = ⟨.stackUnderflow, s.pc.toNat⟩ := by
  simp [State.popCheck, eq_comm]

theorem State.spanCheck_eq_some (k : Nat) :
    s.spanCheck k = some r ↔ 4095 < s.i.toNat + k ∧ r = ⟨.memIndexOutOfBounds, s.i.toNat + k⟩ := by
  simp [State.spanCheck, eq_comm]

theorem State.drawCheck_eq_some (n : Nat) :
    s.drawCheck n = some r ↔
      0 < n ∧ 4095 < s.i.toNat + n - 1 ∧ r = ⟨.memIndexOutOfBounds, s.i.toNat + n - 1⟩ := by
  unfold State.drawCheck
  split
  · next h => simp [h]
  · next h =>
    have hpos : 0 < n := Nat.pos_of_ne_zero h
    rw [State.spanCheck_eq_some, ← Nat.add_sub_assoc hpos]
    exact (and_iff_right hpos).symm

theorem State.keyCheck_eq_some (x : RegIdx) :
    s.keyCheck x = some r ↔ 15 < (s.reg x).toNat ∧ r = ⟨.keyIndexOutOfRange, (s.reg x).toNat⟩ := by
  simp [State.keyCheck, eq_comm]

/-- The rows of the table but the fetch's: what an instruction's check raises, and when. -/
theorem State.check_eq_some_iff (i : Instr) :
    s.check i = some r ↔
      (∃ nnn, i = .call nnn ∧ s.sp.val = 16 ∧ r = ⟨.stackOverflow, s.pc.toNat⟩) ∨
      (i = .ret ∧ s.sp.val = 0 ∧ r = ⟨.stackUnderflow, s.pc.toNat⟩) ∨
      (∃ x, i = .ldB x ∧ 4095 < s.i.toNat + 2 ∧ r = ⟨.memIndexOutOfBounds, s.i.toNat + 2⟩) ∨
      (∃ x, (i = .dump x ∨ i = .load x) ∧ 4095 < s.i.toNat + x.val ∧
        r = ⟨.memIndexOutOfBounds, s.i.toNat + x.val⟩) ∨
      (∃ x y n, i = .drw x y n ∧ 0 < n.val ∧ 4095 < s.i.toNat + n.val - 1 ∧
        r = ⟨.memIndexOutOfBounds, s.i.toNat + n.val - 1⟩) ∨
      (∃ x, (i = .skp x ∨ i = .sknp x) ∧ 15 < (s.reg x).toNat ∧
        r = ⟨.keyIndexOutOfRange, (s.reg x).toNat⟩) := by
  cases i with
  | call nnn => simp [State.check, State.pushCheck_eq_some]
  | ret => simp [State.check, State.popCheck_eq_some]
  | ldB x => simp [State.check, State.spanCheck_eq_some]
  | dump x | load x => simp [State.check, State.spanCheck_eq_some]
  | drw x y n => simp [State.check, State.drawCheck_eq_some]
  | skp x | sknp x => simp [State.check, State.keyCheck_eq_some]
  | _ => simp [State.check]

end

/-! ### The step that reports a fault -/

/-- The two outcomes with a status of fault: the fetch's check or the instruction's has raised it. -/
theorem StepOutcome.of_fault {s t : State} {r : Raise} (h : StepOutcome s (.fault r) t) :
    t = s.raise r ∧ s.fault = 0 ∧
      (s.fetchCheck = some r ∨
        s.fetchCheck = none ∧ ∃ i, decodeWord s.fetchWord = some i ∧ s.check i = some r) := by
  cases h with
  | fetchFault hf hc => exact ⟨rfl, hf, .inl hc⟩
  | instrFault hf hc hd hi => exact ⟨rfl, hf, .inr ⟨hc, _, hd, hi⟩⟩

/-- A step reports a fault exactly when it is not halted and its fetch or its instruction's check raises it. -/
theorem stepStatus_eq_fault_iff (s : State) (r : Raise) :
    stepStatus s = .fault r ↔ s.fault = 0 ∧
      (s.fetchCheck = some r ∨
        s.fetchCheck = none ∧ ∃ i, decodeWord s.fetchWord = some i ∧ s.check i = some r) := by
  constructor
  · intro h
    exact (h ▸ step_outcome (step_stepped s)).of_fault.2
  · rintro ⟨hf, hc | ⟨hc, i, hd, hi⟩⟩
    · exact stepStatus_fetchFault hf hc
    · exact (stepStatus_exec hf hc hd).trans (State.execStatus_of_check_some hi)

/-- The step that reports a fault raises it, which writes FAULT alone (R302). -/
theorem step_of_stepStatus_fault {s : State} {r : Raise} (h : stepStatus s = .fault r) : step s = .next (s.raise r) := by
  obtain ⟨hraised, -⟩ := (h ▸ step_outcome (step_stepped s)).of_fault
  rw [step_stepped, hraised]

/-! ### Load (R316) -/

section
variable {s : State} {bytes : List Byte} {addr : Nat}

theorem State.loadBytes_of_past_end (h : 4096 < addr + bytes.length) : s.loadBytes bytes addr = none := if_pos h

theorem State.loadBytes_of_fits (h : addr + bytes.length ≤ 4096) :
    s.loadBytes bytes addr = some (s.storeBytes addr bytes) := if_neg (Nat.not_lt.2 h)

theorem Session.move_load_of_some {t : State} (h : s.loadBytes bytes addr = some t) :
    Session.move (.booting s) (.load bytes addr) = some (.booting t, .done) := by
  simp only [Session.move, h]

theorem Session.move_load_of_none (h : s.loadBytes bytes addr = none) :
    Session.move (.booting s) (.load bytes addr) = some (.loadFailed s, .capacityExceeded) := by
  simp only [Session.move, h]

end

theorem State.storeBytes_byteAt_getElem (s : State) (p : Nat) (bs : List Byte) {k : Nat} (hk : k < bs.length) :
    (s.storeBytes p bs).byteAt (p + k) = bs[k] :=
  (s.storeBytes_byteAt_inside p bs hk).trans (List.getD_eq_getElem bs 0 hk)

/-! ### KeySet (R313) -/

theorem State.keySet_key_getElem (s : State) (k : KeyIdx) (v : Bool) (j : KeyIdx) :
    (s.keySet k v).key[j.val] = if j = k then v else s.key[j.val] := by
  simp only [State.keySet, Vector.getElem_set, Fin.ext_iff, eq_comm]

end Sys2Proof.Machine

namespace Sys2Proof.Proofs
open Sys2Proof.Machine

/-- Settles O17: a status of fault comes from the fetch's check or the instruction's, and each check is a row of the table;
the step raises what its status reports. -/
theorem faultsAreRaisedExactlyAsTabulated : Obligations.FaultsAreRaisedExactlyAsTabulated := by
  refine ⟨fun s r => ?_, fun s r h => step_of_stepStatus_fault h, rfl, rfl, rfl, rfl, rfl⟩
  simp only [stepStatus_eq_fault_iff, State.fetchCheck_eq_some, State.fetchCheck_eq_none, State.check_eq_some_iff]

/-- Settles O55: the check is of the load's end, and a load that passes it is one store of all its bytes. -/
theorem loadCopiesAllBytesOrNone : Obligations.LoadCopiesAllBytesOrNone := by
  refine ⟨fun s bytes addr => ⟨State.loadBytes_of_past_end, fun hfits => ?copies⟩, fun s bytes addr =>
    ⟨rfl, fun _ => Session.move_load_of_some, fun hpast => ⟨?fails, rfl⟩⟩⟩
  case copies =>
    exact ⟨_, State.loadBytes_of_fits hfits, fun _ => s.storeBytes_byteAt_getElem addr bytes,
      fun _ => s.storeBytes_byteAt_outside addr bytes, rfl, (ChangesOnly.refl _ _ s).storeBytes (.head _) addr bytes⟩
  case fails => exact Session.move_load_of_none (State.loadBytes_of_past_end hpast)

/-- Settles O56: the latch is written at one index, in any session that has a core. -/
theorem keySetWritesOneKey : Obligations.KeySetWritesOneKey :=
  fun s k v => ⟨s.keySet_key_getElem k v, rfl, rfl, rfl, rfl⟩

/-- Settles O57: move by move; a session that steps takes no load, and only a key write and a clear give a new core. -/
theorem hostTouchesOnlyKeysAndDirtyBetweenSteps : Obligations.HostTouchesOnlyKeysAndDirtyBetweenSteps := by
  intro s m e r hstep hreset hmove
  cases m with
  | step => exact absurd rfl hstep
  | reset => exact absurd rfl hreset
  | load bytes addr => cases hmove
  | keySet k v => cases hmove; exact ⟨_, rfl, rfl, id, nofun, nofun, nofun, nofun⟩
  | fbRead k =>
    cases hmove
    refine ⟨s, rfl, rfl, id, fun k' hk => ?_, nofun, nofun, nofun⟩
    cases hk
    exact ⟨rfl, rfl⟩
  | dirtyQuery => cases hmove; exact ⟨s, rfl, rfl, id, nofun, fun _ => ⟨rfl, rfl⟩, nofun, nofun⟩
  | observe => cases hmove; exact ⟨s, rfl, rfl, id, nofun, nofun, fun _ => ⟨rfl, rfl⟩, nofun⟩
  | dirtyClear => cases hmove; exact ⟨_, rfl, rfl, fun _ => rfl, nofun, nofun, nofun, fun _ => rfl⟩

end Sys2Proof.Proofs
end

section
/-! SUPPORT. Proofs of the statements about reset and hazards (spec 70_reset_and_hazards.md). Before them the key that a KeySet
presses in an empty latch, and the word that a store at PC leaves there for the fetch. -/

namespace Sys2Proof.Machine

/-! ### The latch after a KeySet -/

theorem State.keySet_key_self (s : State) (k : KeyIdx) (v : Bool) : (s.keySet k v).key[k.val] = v :=
  (s.keySet_key_getElem k v k).trans (if_pos rfl)

theorem State.keySet_key_of_ne (s : State) {k j : KeyIdx} (v : Bool) (h : j ≠ k) :
    (s.keySet k v).key[j.val] = s.key[j.val] :=
  (s.keySet_key_getElem k v j).trans (if_neg h)

/-! ### The word stored at PC -/

theorem State.storeBytes_fetchWord (s : State) (hi lo : Byte) (rest : List Byte) :
    (s.storeBytes s.pc.toNat (hi :: lo :: rest)).fetchWord = wordOfBytes hi lo := by
  have hbyte {k : Nat} := s.storeBytes_byteAt_getElem s.pc.toNat (hi :: lo :: rest) (k := k)
  exact congrArg₂ wordOfBytes (hbyte (Nat.succ_pos _)) (hbyte (Nat.succ_lt_succ (Nat.succ_pos _)))

end Sys2Proof.Machine

namespace Sys2Proof.Proofs
open Sys2Proof.Machine

/-- Settles O54: with no key pressed the step is the identity, so any number of steps is; a KeySet leaves the fetch as it was
and makes its key the lowest pressed one, which the next step stores. -/
theorem keyWaitHoldsUntilAKeyIsSet : Obligations.KeyWaitHoldsUntilAKeyIsSet := by
  intro s x k hf hpc hd hnone
  obtain ⟨-, hkeyWait⟩ := keyWaitStoresTheLowestPressedKey x
  constructor
  case left =>
    obtain ⟨-, -, hstep⟩ := (hkeyWait s).2 hnone
    exact reachesIn_of_step_self (hstep hf hpc hd)
  case right =>
    have hlower : ∀ j : KeyIdx, j.val < k.val → (s.keySet k true).key[j.val] = false := fun j hj =>
      (s.keySet_key_of_ne true (Fin.ne_of_lt hj)).trans (hnone j)
    obtain ⟨-, -, hstep⟩ := (hkeyWait (s.keySet k true)).1 k (s.keySet_key_self k true) hlower
    obtain ⟨t, ht, hreg, hpc', hdt, -⟩ := hstep hf hpc hd
    exact ⟨t, ht, hreg, hpc', hdt⟩

/-- Settles O58: a program that fits is stored at 0x200, which is PC after reset, and a store leaves PC alone. -/
theorem loadedProgramIsWhatTheFirstStepFetches : Obligations.LoadedProgramIsWhatTheFirstStepFetches := by
  intro hi lo rest hlen
  have hfits : 0x200 + (hi :: lo :: rest).length ≤ 4096 := by
    rw [List.length_cons, List.length_cons]
    omega
  have hfetch : (State.reset.storeBytes 0x200 (hi :: lo :: rest)).fetchWord = wordOfBytes hi lo :=
    State.reset.storeBytes_fetchWord hi lo rest
  refine ⟨_, rfl, Session.move_load_of_some (State.loadBytes_of_fits hfits), rfl, ?word, rfl⟩
  case word => rw [hfetch, toNat_wordOfBytes, Nat.mul_comm]

end Sys2Proof.Proofs
end
